-- ==== Sys2Proof/Word.lean ====
section
/-!
DEFINITION. The word types of the QXE: bytes, port words and accumulator words (00_scope.md R7 to R10).
-/
namespace Sys2Proof

/-- An 8-bit unsigned value (00_scope.md R10). -/
abbrev Byte := BitVec 8

/-- One word of a port: every transfer on CMD_IN and RSP_OUT is one whole 32-bit word (20_memory.md R57). -/
abbrev PortWord := BitVec 32

/-- One word of the accumulator, 64 bits (10_state.md R21). -/
abbrev AccWord := BitVec 64

end Sys2Proof
end

