-- ==== Sys2Proof/Config.lean ====
section
/-!
DEFINITION. The constants of the QXE (00_scope.md R5: fixed in hardware, no command writes them, 10_state.md R25) and its two
open parameters (00_scope.md R6).
-/
namespace Sys2Proof.Config

/-- WIDTH_BITS, the accumulator's width (00_scope.md R5). -/
@[simp] def widthBits : Nat := 160

/-- SHIFT, how far the cursor moves per byte (00_scope.md R5). -/
@[simp] def shift : Nat := 11

/-- WIDTH_BYTES, the digest's length (00_scope.md R5). -/
@[simp] def widthBytes : Nat := 20

/-- WORD_COUNT, how many accumulator words there are (00_scope.md R5). -/
@[simp] def wordCount : Nat := 3

/-- The width of an accumulator word (10_state.md R21). -/
@[simp] def cellBits : Nat := 64

/-- LAST_CELL_BITS, the meaningful bits of the last word (00_scope.md R5). -/
@[simp] def lastCellBits : Nat := 32

/-- One more than the largest length of one ADD: the field N has 28 bits (00_scope.md R5, 30_encoding.md R83). -/
@[simp] def addLimit : Nat := 268435456

/-- RSP_DEPTH less one, unknown (00_scope.md R6, 92_eei_decisions.md D21). No statement may rest on its value (log 4). -/
opaque rspDepthPred : Nat

/-- RSP_DEPTH of this machine: some number of at least 1 (00_scope.md R6). -/
def rspDepth : Nat := rspDepthPred + 1

/-- QXE_BASE, where a platform maps the ports, unknown (00_scope.md R6, 20_memory.md R66). Nothing of the model reads it,
because no rule's value depends on it (log 5). -/
opaque qxeBase : Nat

end Sys2Proof.Config
end

