-- ==== Sys2Proof/Syntax.lean ====
section
/-!
DEFINITION. The commands of the QXE, one constructor per row of spec/opcode_table.json (30_encoding.md R81).
-/
namespace Sys2Proof

/-- A command, as its command word says it. An ADD's payload is no part of the term: its bytes arrive in later words,
one step each, while PHASE is PAYLOAD (30_encoding.md R82, R86; 10_state.md R29, R32; log 13). -/
inductive Instr where
  /-- RESET: back to the empty state (42_control.md R170). -/
  | reset
  /-- ADD: add `n` bytes, which follow as payload (40_add.md R100, 30_encoding.md R83). -/
  | add (n : Nat)
  /-- DIGEST: emit the 20-byte digest (41_digest.md R140). -/
  | digest
  /-- B64DIGEST: emit the digest as base64 text (41_digest.md R150). -/
  | b64digest
  /-- RDSTAT: emit cursor, flags and byte count (42_control.md R175). -/
  | rdstat
  /-- RDCFG: emit the configuration word (42_control.md R180). -/
  | rdcfg
  deriving DecidableEq, Repr

end Sys2Proof
end

