-- ==== Sys2Proof/WellFormed.lean ====
section
/-!
DEFINITION. Which commands have a command word: an ADD's length is a 28-bit count (30_encoding.md R83); no other command
has an operand (30_encoding.md R84).
-/
namespace Sys2Proof

/-- The check: N lies between 0 and 2^28 - 1 (30_encoding.md R83). -/
def Instr.wf : Instr → Bool
  | .reset => true
  | .add n => decide (n < Config.addLimit)
  | .digest => true
  | .b64digest => true
  | .rdstat => true
  | .rdcfg => true

/-- A command that some command word stands for. -/
abbrev Instr.WellFormed (i : Instr) : Prop := i.wf = true

end Sys2Proof
end

