-- ==== Sys2Proof/Decode.lean ====
section
/-!
DEFINITION. The decoder of command words, total on every 32-bit word (30_encoding.md R80 to R85); the encoder, from the same
table; the payload's packing into port words; and the assembler of 30_encoding.md R90 and R91.
-/
namespace Sys2Proof

/-- Why a command word selects no command (30_encoding.md R85). -/
inductive Illegal where
  /-- (a) no command has this OP (60_exceptions.md R200). -/
  | illop
  /-- (b) a command without operand has a nonzero ARG (60_exceptions.md R201). -/
  | rsvd
  deriving DecidableEq, Repr

/-- OP, bits [31:28] of a command word (30_encoding.md R80). -/
def opField (c : PortWord) : BitVec 4 := c.extractLsb' 28 4

/-- ARG, bits [27:0] of a command word (30_encoding.md R80). -/
def argField (c : PortWord) : BitVec 28 := c.extractLsb' 0 28

/-- A command whose ARG is reserved and must be 0 (30_encoding.md R84). -/
def noOperand (arg : BitVec 28) (i : Instr) : Except Illegal Instr :=
  if arg = 0 then .ok i else .error .rsvd

/-- The decoder of 30_encoding.md R82: the opcode is tested first, the reserved field only for a legal opcode
(60_exceptions.md R204). -/
def decode (c : PortWord) : Except Illegal Instr :=
  match (opField c).toNat with
  | 1 => noOperand (argField c) .reset
  | 2 => .ok (.add (argField c).toNat)
  | 3 => noOperand (argField c) .digest
  | 4 => noOperand (argField c) .b64digest
  | 5 => noOperand (argField c) .rdstat
  | 6 => noOperand (argField c) .rdcfg
  | _ => .error .illop

/-- The command word with the given fields: OP in the more significant place (30_encoding.md R80). -/
def commandWord (op : BitVec 4) (arg : BitVec 28) : PortWord := op ++ arg

/-- The command word of a well-formed command (30_encoding.md R81). -/
def encode : Instr → PortWord
  | .reset => commandWord 0x1 0
  | .add n => commandWord 0x2 (BitVec.ofNat 28 n)
  | .digest => commandWord 0x3 0
  | .b64digest => commandWord 0x4 0
  | .rdstat => commandWord 0x5 0
  | .rdcfg => commandWord 0x6 0

/-- How many payload words carry `n` bytes: ceil(n/4) (30_encoding.md R86). -/
def payloadWords (n : Nat) : Nat := (n + 3) / 4

/-- How many words of CMD_IN the command that starts with this word takes (30_encoding.md R87). -/
def commandLength (c : PortWord) : Nat :=
  match decode c with
  | .ok (.add n) => 1 + payloadWords n
  | _ => 1

/-- The instruction's bits as spec/opcode_table.json numbers them, as the one port word that carries them. Every row has one
word of 32 bits, and the bits above `nbits` are 0. -/
def tableWord (nbits w : Nat) : PortWord := BitVec.ofNat 32 (w % 2 ^ nbits)

/-- The command the decoder reads from an opcode-table word. -/
def decodeTableWord (nbits w : Nat) : Option Instr :=
  match decode (tableWord nbits w) with
  | .ok i => some i
  | .error _ => none

/-- Four bytes in one port word, lane 0 least significant (20_memory.md R54). -/
def packLanes (b0 b1 b2 b3 : Byte) : PortWord := b3 ++ b2 ++ b1 ++ b0

/-- A byte sequence in port words, little-endian, padding lanes 0 (20_memory.md R54, 30_encoding.md R90). -/
def packWords : List Byte → List PortWord
  | b0 :: b1 :: b2 :: b3 :: rest => packLanes b0 b1 b2 b3 :: packWords rest
  | [b0, b1, b2] => [packLanes b0 b1 b2 0]
  | [b0, b1] => [packLanes b0 b1 0 0]
  | [b0] => [packLanes b0 0 0 0]
  | [] => []

/-- `ADD b0, …, b(N-1)`: the command word and its payload words (30_encoding.md R90). -/
def assembleAdd (d : List Byte) : List PortWord := encode (.add d.length) :: packWords d

/-- `ADD "text"`: the ASCII codes of the characters, no terminator (30_encoding.md R90). -/
def asciiBytes (text : List Char) : List Byte := text.map fun c => BitVec.ofNat 8 c.toNat

/-- `ADDB b` (30_encoding.md R91). -/
def assembleAddb (b : Byte) : List PortWord := assembleAdd [b]

/-- `ADDL` of a byte sequence that the caller has split into pieces, each shorter than 2^28 bytes: any split is valid, and the
empty sequence is one empty ADD (30_encoding.md R91). -/
def assembleAddl : List (List Byte) → List PortWord
  | [] => assembleAdd []
  | pieces => pieces.flatMap assembleAdd

/-- `HASH`: RESET, ADDL, B64DIGEST (30_encoding.md R91). -/
def assembleHash (pieces : List (List Byte)) : List PortWord :=
  encode .reset :: (assembleAddl pieces ++ [encode .b64digest])

end Sys2Proof
end

