-- ==== Sys2Proof/Machine/State.lean ====
section
/-!
DEFINITION. The machine's state as plain data (10_state.md R20, R29), its value after hardware reset (10_state.md R34), and the
reasons a step can stop: there are none (60_exceptions.md R206).
-/
namespace Sys2Proof.Machine

/-- The three accumulator words (10_state.md R21, R22): exactly three, 64 bits each. -/
@[ext]
structure Words where
  w0 : AccWord
  w1 : AccWord
  w2 : AccWord
  deriving DecidableEq, Repr

/-- PHASE, where the command port is in its word stream (10_state.md R29). -/
inductive Phase where
  /-- The next word on CMD_IN is a command word. -/
  | idle
  /-- An ADD of length `n` has been decoded, and `buf` holds the payload bytes received so far. -/
  | payload (n : Nat) (buf : List Byte)
  deriving DecidableEq, Repr

/-- One move: the engine's own, or an act of the host (20_memory.md R68; log 2). -/
inductive Turn where
  /-- The engine moves. -/
  | engine
  /-- The host delivers a word on CMD_IN (20_memory.md R51). -/
  | deliver (v : PortWord)
  /-- The host takes a word from RSP_OUT (20_memory.md R52). -/
  | take
  /-- The host asserts RST (20_memory.md R53). -/
  | assertRst
  /-- The host releases RST (20_memory.md R53). -/
  | releaseRst
  deriving DecidableEq, Repr

/-- The faults of a step. There are none: an error of the QXE transfers no control and stops nothing, it sets a sticky flag
(60_exceptions.md R203, R206), and a wait is no error (60_exceptions.md R209). Safe: no behaviour of the QXE is cut off. -/
inductive Fault where
  deriving DecidableEq, Repr

/-- The refusals of a step. -/
inductive Refusal where
  /-- Raised by an arm of exec for an instruction that has no meaning yet; no arm raises it. Safe: a refusal proves nothing. -/
  | notModelled (mnemonic : String)
  deriving DecidableEq, Repr

/-- The state of the QXE and of its ports. -/
@[ext]
structure State where
  /-- W[0], W[1], W[2] (10_state.md R21). -/
  words : Words
  /-- CURSOR, 8 bits with values 0 to 159 (10_state.md R23). -/
  cursor : BitVec 8
  /-- TOTAL, the byte count (10_state.md R24). -/
  total : BitVec 64
  /-- ILLOP, sticky (10_state.md R26). -/
  illop : Bool
  /-- RSVD, sticky (10_state.md R26). -/
  rsvd : Bool
  /-- WRAP, sticky (10_state.md R26). -/
  wrap : Bool
  /-- PHASE (10_state.md R29). -/
  phase : Phase
  /-- RSPQ, oldest first (10_state.md R29). -/
  rspq : List PortWord
  /-- The words the command in progress has still to emit, while Emit waits for room in RSPQ (20_memory.md R51, R52; log 6). -/
  emitting : List PortWord
  /-- The words the host has delivered on CMD_IN and the engine has not taken, oldest first (20_memory.md R51; log 1). -/
  cmdIn : List PortWord
  /-- The level of the input RST: true while it is asserted (20_memory.md R53; log 3). -/
  rst : Bool
  /-- MODEL's own: the words the host has taken from RSP_OUT, oldest first, which is what a run is observed to do
  (70_reset_and_hazards.md R252; log 7). -/
  taken : List PortWord
  /-- MODEL's own: who moves next; once it is empty the engine moves (log 2). -/
  turns : List Turn
  /-- The open parameter RSP_DEPTH (00_scope.md R6), which no step changes (log 4). -/
  rspDepth : Nat
  deriving DecidableEq, Repr

/-- The accumulator with every bit 0. -/
def Words.zero : Words := { w0 := 0, w1 := 0, w2 := 0 }

/-- The machine right after hardware reset (10_state.md R34, 70_reset_and_hazards.md R230), RST released, nothing delivered. -/
def State.reset : State where
  words := Words.zero
  cursor := 0
  total := 0
  illop := false
  rsvd := false
  wrap := false
  phase := .idle
  rspq := []
  emitting := []
  cmdIn := []
  rst := false
  taken := []
  turns := []
  rspDepth := Config.rspDepth

end Sys2Proof.Machine
end

