-- ==== Sys2Proof/Machine/Flags.lean ====
section
/-!
DEFINITION. The three sticky error flags: their causes, their setting, when a count wraps, and the STATUS word that shows them
(60_exceptions.md section 1, 10_state.md R26, R27).
-/
namespace Sys2Proof.Machine

/-- The error causes (60_exceptions.md section 1). -/
inductive Cause where
  /-- No command has this opcode (60_exceptions.md R200). -/
  | illop
  /-- A reserved argument is not 0 (60_exceptions.md R201). -/
  | rsvd
  /-- The byte count passed 2^64 - 1 (60_exceptions.md R202). -/
  | wrap
  deriving DecidableEq, Repr

/-- The number the spec names a cause by; no register holds it (60_exceptions.md section 1). -/
def Cause.code : Cause → Nat
  | .illop => 1
  | .rsvd => 2
  | .wrap => 3

/-- The cause that an illegal command word raises (60_exceptions.md R200, R201). -/
def illegalCause : Illegal → Cause
  | .illop => .illop
  | .rsvd => .rsvd

/-- Set the flag of a cause; a flag already at 1 stays 1 (60_exceptions.md R203). -/
def setFlag : Cause → State → State
  | .illop, s => { s with illop := true }
  | .rsvd, s => { s with rsvd := true }
  | .wrap, s => { s with wrap := true }

/-- Adding `n` bytes takes the count to 2^64 or more, as an exact sum (40_add.md R109). -/
def countWraps (total : BitVec 64) (n : Nat) : Bool := decide (2 ^ 64 ≤ total.toNat + n)

/-- One flag at its place in STATUS. -/
def flagBit (b : Bool) (place : Nat) : PortWord := BitVec.setWidth 32 (BitVec.ofBool b) <<< place

/-- The STATUS word (10_state.md R27, 42_control.md R175). -/
def statusWord (s : State) : PortWord :=
  BitVec.setWidth 32 s.cursor ||| flagBit s.illop 8 ||| flagBit s.rsvd 9 ||| flagBit s.wrap 10

end Sys2Proof.Machine
end

