-- ==== Sys2Proof/Machine/Operands.lean ====
section
/-!
DEFINITION. How bytes lie in words: the lanes of a port word, an ADD's payload operand, and the bytes of a 64-bit register
(20_memory.md R54, R55; 30_encoding.md R86).
-/
namespace Sys2Proof.Machine

/-- Byte lane L of a port word, bits [8L+7:8L] (20_memory.md R54). -/
def lane (v : PortWord) (L : Nat) : Byte := v.extractLsb' (8 * L) 8

/-- The four lanes of a port word, lane 0 first (20_memory.md R54). -/
def lanes (v : PortWord) : List Byte := [lane v 0, lane v 1, lane v 2, lane v 3]

/-- The payload bytes after one more payload word: its lanes up to `n` bytes in total; the padding lanes are ignored
(30_encoding.md R86). -/
def appendPayload (n : Nat) (buf : List Byte) (v : PortWord) : List Byte :=
  buf ++ (lanes v).take (n - buf.length)

/-- The eight bytes of a 64-bit register, little-endian (20_memory.md R55). -/
def registerBytes (v : BitVec 64) : List Byte :=
  [v.extractLsb' 0 8, v.extractLsb' 8 8, v.extractLsb' 16 8, v.extractLsb' 24 8,
   v.extractLsb' 32 8, v.extractLsb' 40 8, v.extractLsb' 48 8, v.extractLsb' 56 8]

end Sys2Proof.Machine
end

