-- ==== Sys2Proof/Machine/Ops.lean ====
section
/-!
DEFINITION. The named operations over the state: raising an error, emitting responses, hardware reset, the host's acts, and
the accumulator's views.
-/
namespace Sys2Proof.Machine

/-- `raise Error(cause)`: the QXE's whole error mechanism. It sets the cause's flag and does nothing else: no control is
transferred, nothing is saved, and there is nothing to return from (60_exceptions.md R203, R206). -/
def raiseError (c : Cause) (s : State) : State := setFlag c s

/-- How many words fit into RSPQ before Emit waits (20_memory.md R52). -/
def rspRoom (s : State) : Nat := s.rspDepth - s.rspq.length

/-- Carry on with the Emits of the command in progress: each appends its word to RSPQ, in order, until none is left or RSPQ
holds RSP_DEPTH words and Emit waits (20_memory.md R52). -/
def drainEmits (s : State) : State :=
  { s with
    rspq := s.rspq ++ s.emitting.take (rspRoom s)
    emitting := s.emitting.drop (rspRoom s) }

/-- The Emits of a command, first word first (20_memory.md R52). -/
def emitAll (vs : List PortWord) (s : State) : State := drainEmits { s with emitting := s.emitting ++ vs }

/-- The accumulator, cursor and count of the empty state (10_state.md R30). -/
def clearHash (s : State) : State := { s with words := Words.zero, cursor := 0, total := 0 }

/-- Hardware reset: every piece of the engine's state takes its reset value, an ADD in progress is discarded and queued responses
are lost (70_reset_and_hazards.md R230, R231). The ports' other sides stay: what is delivered and not taken, and what
the host has taken (log 1). -/
def hardReset (s : State) : State :=
  { clearHash s with
    illop := false, rsvd := false, wrap := false
    phase := .idle
    rspq := []
    emitting := [] }

/-- The host delivers a word on CMD_IN; none is lost or reordered (20_memory.md R51). -/
def hostDeliver (v : PortWord) (s : State) : State := { s with cmdIn := s.cmdIn ++ [v] }

/-- The host takes the word at the front of RSPQ, if there is one (20_memory.md R52; log 7). -/
def hostTake (s : State) : State :=
  match s.rspq with
  | [] => s
  | v :: rest => { s with rspq := rest, taken := s.taken ++ [v] }

/-- RST is asserted: the reset values, from now on held (20_memory.md R53, 70_reset_and_hazards.md R230). DESIGN CHOICE: an
assertion while RST is asserted takes them again (log 20). -/
def hostAssertRst (s : State) : State := { hardReset s with rst := true }

/-- RST is released: the state has the reset values (20_memory.md R53). DESIGN CHOICE: the spec gives no release while RST is
not asserted; the model changes nothing at such an act, because the state is held as long as RST is not asserted
(60_exceptions.md R215; log 20). -/
def hostReleaseRst (s : State) : State := if s.rst then { hardReset s with rst := false } else s

/-- The logical 160-bit vector: bit p is `W[p / 64][p mod 64]` (10_state.md R21). -/
def logical (W : Words) : BitVec 160 := (BitVec.setWidth 32 W.w2 ++ W.w1 ++ W.w0 : BitVec (32 + 64 + 64))

/-- XOR a value into `W[k]`; the word index is 0, 1 or 2 (40_add.md R105). -/
def xorWord (k : Nat) (v : AccWord) (W : Words) : Words :=
  match k with
  | 0 => { W with w0 := W.w0 ^^^ v }
  | 1 => { W with w1 := W.w1 ^^^ v }
  | _ => { W with w2 := W.w2 ^^^ v }

end Sys2Proof.Machine
end

