-- ==== Sys2Proof/Machine/Add.lean ====
section
/-!
DEFINITION. ADD, the accumulator update (40_add.md): the fold, the placement with its spill, the advance of the loop's pair, the
cursor's formula, the byte count, and the command.
-/
namespace Sys2Proof.Machine

/-- XOR of the byte after `skip` bytes and of every 160th byte from there on. -/
def foldFrom : List Byte → Nat → Byte
  | [], _ => 0
  | b :: rest, 0 => b ^^^ foldFrom rest (Config.widthBits - 1)
  | _ :: rest, skip + 1 => foldFrom rest skip

/-- The folded byte of iteration `i`: XOR of `d[j]` for j = i, i + 160, … below |d| (40_add.md R103). -/
def foldByte (d : List Byte) (i : Nat) : Byte := foldFrom d i

/-- The word after word `wi`, circularly (40_add.md R104). -/
def nextWord (wi : Nat) : Nat := (wi + 1) % Config.wordCount

/-- The effective size of word `wi`: 32 bits where the next word wraps to 0, else 64 (40_add.md R104). -/
def cellSize (wi : Nat) : Nat := if nextWord wi = 0 then Config.lastCellBits else Config.cellBits

/-- Place a byte at bit offset `bo` of word `wi`: the primary XOR, a full 64-bit shift, and the spill into the next word when
the byte straddles the boundary (40_add.md R105). -/
def placeAt (wi bo : Nat) (x : Byte) (W : Words) : Words :=
  let primary := xorWord wi (BitVec.setWidth 64 x <<< bo) W
  if cellSize wi - 8 < bo then
    xorWord (nextWord wi) (BitVec.setWidth 64 x >>> (cellSize wi - bo)) primary
  else primary

/-- PLACE: a byte at a position of the logical vector (40_add.md R114). -/
def place (W : Words) (p : Nat) (b : Byte) : Words := placeAt (p / 64) (p % 64) b W

/-- What the loop of one ADD carries: the words and the cursor as a pair (40_add.md R102). -/
structure Placer where
  words : Words
  wi : Nat
  bo : Nat
  deriving DecidableEq, Repr

/-- The cursor as a pair, at the loop's start (40_add.md R102). -/
def startPlacer (cursor : BitVec 8) (W : Words) : Placer :=
  { words := W, wi := cursor.toNat / 64, bo := cursor.toNat % 64 }

/-- One iteration: place the folded byte, then advance the pair by 11 with at most one change of word (40_add.md R105, R106). -/
def placeIter (d : List Byte) (p : Placer) (i : Nat) : Placer :=
  let words := placeAt p.wi p.bo (foldByte d i) p.words
  let bo := p.bo + Config.shift
  if cellSize p.wi ≤ bo then { words := words, wi := nextWord p.wi, bo := bo - cellSize p.wi }
  else { words := words, wi := p.wi, bo := bo }

/-- The loop's first `k` iterations (40_add.md R101). -/
def placeLoop (d : List Byte) (cursor : BitVec 8) (W : Words) (k : Nat) : Placer :=
  (List.range k).foldl (placeIter d) (startPlacer cursor W)

/-- The words after an ADD: at most 160 iterations; the loop's own pair is discarded (40_add.md R101, R107). -/
def addWords (d : List Byte) (cursor : BitVec 8) (W : Words) : Words :=
  (placeLoop d cursor W (min d.length Config.widthBits)).words

/-- The cursor's one update (40_add.md R108). -/
def advanceCursor (cursor : BitVec 8) (n : Nat) : BitVec 8 :=
  BitVec.ofNat 8 ((cursor.toNat + Config.shift * (n % Config.widthBits)) % Config.widthBits)

/-- Count `n` bytes: TOTAL modulo 2^64, and WRAP raised when the exact sum passes the range (40_add.md R109,
60_exceptions.md R202). -/
def countBytes (n : Nat) (s : State) : State :=
  let t := if countWraps s.total n then raiseError .wrap s else s
  { t with total := s.total + BitVec.ofNat 64 n }

/-- `ADD(d)`: the whole execution of an ADD whose payload is `d` (40_add.md R100). -/
def addBytes (d : List Byte) (s : State) : State :=
  countBytes d.length
    { s with words := addWords d s.cursor s.words, cursor := advanceCursor s.cursor d.length }

/-- One payload word arrives while PHASE is PAYLOAD(n, buf): its bytes are appended, and the ADD executes once all `n` bytes are
there (30_encoding.md R86). -/
def takePayload (n : Nat) (buf : List Byte) (v : PortWord) (s : State) : State :=
  let buf' := appendPayload n buf v
  if buf'.length = n then { addBytes buf' s with phase := .idle }
  else { s with phase := .payload n buf' }

/-- The ADD command word: with N = 0 the empty ADD executes at once, else the payload is awaited
(30_encoding.md R82, R86; 40_add.md R100, R110). -/
def execAdd (n : Nat) (s : State) : Host.Outcome State Fault Refusal :=
  if n = 0 then .next (addBytes [] s) else .next { s with phase := .payload n [] }

end Sys2Proof.Machine
end

