-- ==== Sys2Proof/Machine/Control.lean ====
section
/-!
DEFINITION. RESET, RDSTAT and RDCFG (42_control.md).
-/
namespace Sys2Proof.Machine

/-- RESET: words, cursor and count to zero; the flags, RSPQ and the configuration stay (42_control.md R170). -/
def execReset (s : State) : Host.Outcome State Fault Refusal := .next (clearHash s)

/-- RDSTAT: STATUS, then the low and the high half of TOTAL (42_control.md R175). -/
def execRdstat (s : State) : Host.Outcome State Fault Refusal :=
  .next (emitAll [statusWord s, s.total.extractLsb' 0 32, s.total.extractLsb' 32 32] s)

/-- The CONFIG word: WORD_COUNT, WIDTH_BYTES, SHIFT and WIDTH_BITS, a byte each, the last least significant (10_state.md R28). -/
def configWord : PortWord :=
  packLanes (BitVec.ofNat 8 Config.widthBits) (BitVec.ofNat 8 Config.shift)
    (BitVec.ofNat 8 Config.widthBytes) (BitVec.ofNat 8 Config.wordCount)

/-- RDCFG: the CONFIG word (42_control.md R180). -/
def execRdcfg (s : State) : Host.Outcome State Fault Refusal := .next (emitAll [configWord] s)

end Sys2Proof.Machine
end

