-- ==== Sys2Proof/Machine/Digest.lean ====
section
/-!
DEFINITION. DIGEST and B64DIGEST, finalization and rendering (41_digest.md).
-/
namespace Sys2Proof.Machine

/-- The 20 digest bytes: the little-endian image of the words, cut to 20 bytes, with the byte count XORed into its last 8
(41_digest.md R141). -/
def digestBytes (s : State) : List Byte :=
  let image := (registerBytes s.words.w0 ++ registerBytes s.words.w1 ++ registerBytes s.words.w2).take Config.widthBytes
  image.take (Config.widthBytes - 8)
    ++ List.zipWith (· ^^^ ·) (image.drop (Config.widthBytes - 8)) (registerBytes s.total)

/-- DIGEST: the digest in 5 words, packed little-endian (41_digest.md R140, R143). -/
def execDigest (s : State) : Host.Outcome State Fault Refusal :=
  .next (emitAll (packWords (digestBytes s)) s)

/-- The ASCII code of index `i` of the standard base64 alphabet (41_digest.md R152). -/
def base64Char (i : BitVec 6) : Byte :=
  if i.toNat < 26 then BitVec.ofNat 8 (0x41 + i.toNat)
  else if i.toNat < 52 then BitVec.ofNat 8 (0x61 + (i.toNat - 26))
  else if i.toNat < 62 then BitVec.ofNat 8 (0x30 + (i.toNat - 52))
  else if i.toNat = 62 then 0x2B else 0x2F

/-- The pad character `=` (41_digest.md R152). -/
def base64Pad : Byte := 0x3D

/-- The four 6-bit indices of a 24-bit group, most significant first, as characters (41_digest.md R151). -/
def base64Quad (v : BitVec 24) : List Byte :=
  [base64Char (v.extractLsb' 18 6), base64Char (v.extractLsb' 12 6),
   base64Char (v.extractLsb' 6 6), base64Char (v.extractLsb' 0 6)]

/-- BASE64 of a byte sequence: full groups of three bytes, then a padded group of one or two (41_digest.md R151). -/
def base64 : List Byte → List Byte
  | b0 :: b1 :: b2 :: rest => base64Quad (b0 ++ b1 ++ b2) ++ base64 rest
  | [b, c] => (base64Quad (b ++ c ++ (0 : Byte))).take 3 ++ [base64Pad]
  | [b] => (base64Quad (b ++ (0 : Byte) ++ (0 : Byte))).take 2 ++ [base64Pad, base64Pad]
  | [] => []

/-- B64DIGEST: the base64 text of the digest in 7 words, packed little-endian (41_digest.md R150, R153). -/
def execB64digest (s : State) : Host.Outcome State Fault Refusal :=
  .next (emitAll (packWords (base64 (digestBytes s))) s)

end Sys2Proof.Machine
end

