-- ==== Sys2Proof/Machine/Dispatch.lean ====
section
/-!
DEFINITION. The dispatch of a decoded command to its meaning, one arm per row of spec/opcode_table.json.
-/
namespace Sys2Proof.Machine

/-- Execute a decoded command (30_encoding.md R82); its command word has already been taken from CMD_IN. -/
def exec (i : Instr) (s : State) : Host.Outcome State Fault Refusal :=
  match i with
  | .reset => Sys2Proof.Machine.execReset s
  | .add n => Sys2Proof.Machine.execAdd n s
  | .digest => Sys2Proof.Machine.execDigest s
  | .b64digest => Sys2Proof.Machine.execB64digest s
  | .rdstat => Sys2Proof.Machine.execRdstat s
  | .rdcfg => Sys2Proof.Machine.execRdcfg s

end Sys2Proof.Machine
end

