-- ==== Sys2Proof/Machine/Engine.lean ====
section
/-!
DEFINITION. The engine's move: what it does with the next word of CMD_IN, and when it waits (20_memory.md R51, R52, R60;
30_encoding.md R82, R86); and one move of the machine, the engine's or the host's.
-/
namespace Sys2Proof.Machine

/-- A command word taken while PHASE is IDLE: the command it encodes is executed; an illegal word is recorded and discarded
(30_encoding.md R82, 60_exceptions.md R203). -/
def takeCommand (c : PortWord) (s : State) : Host.Outcome State Fault Refusal :=
  match decode c with
  | .ok i => exec i s
  | .error e => .next (raiseError (illegalCause e) s)

/-- Any word taken from CMD_IN: a command word or a payload word, as PHASE says (10_state.md R29). -/
def takeWord (v : PortWord) (s : State) : Host.Outcome State Fault Refusal :=
  match s.phase with
  | .idle => takeCommand v s
  | .payload n buf => .next (takePayload n buf v s)

/-- The engine's move. While RST is asserted it takes no command (20_memory.md R53); while a command has words to emit it goes
on emitting and takes no word (20_memory.md R51); else it takes the next word, and waits, with nothing changed, while the
host has delivered none (20_memory.md R51, 60_exceptions.md R209; log 14). -/
def engineMove (s : State) : Host.Outcome State Fault Refusal :=
  if s.rst then .next s
  else if s.emitting ≠ [] then .next (drainEmits s)
  else
    match s.cmdIn with
    | [] => .next s
    | v :: rest => takeWord v { s with cmdIn := rest }

/-- One move: the turn at the front of `turns` is used up; once none is left the engine moves (log 2). -/
def moveOnce (s : State) : Host.Outcome State Fault Refusal :=
  match s.turns with
  | [] => engineMove s
  | .engine :: rest => engineMove { s with turns := rest }
  | .deliver v :: rest => .next (hostDeliver v { s with turns := rest })
  | .take :: rest => .next (hostTake { s with turns := rest })
  | .assertRst :: rest => .next (hostAssertRst { s with turns := rest })
  | .releaseRst :: rest => .next (hostReleaseRst { s with turns := rest })

/-- Put a command word where the engine's very next move takes it: at the front of CMD_IN, with the engine idle, not in reset,
with nothing left to emit, and its turn next (log 15). -/
def placeNextWord (v : PortWord) (s : State) : State :=
  { s with
    cmdIn := v :: s.cmdIn
    phase := .idle
    emitting := []
    rst := false
    turns := .engine :: s.turns }

end Sys2Proof.Machine
end

