-- ==== Sys2Proof/Machine/Step.lean ====
section
/-!
DEFINITION. The machine's step, and the placing of a command word where the next step takes it.
-/
namespace Sys2Proof.Machine

/-- One step of the machine: one move (Engine.lean). -/
def step (s : State) : Host.Outcome State Fault Refusal := moveOnce s

/-- `s` with an opcode-table word as the word that the very next step takes and runs (Engine.lean, `placeNextWord`). -/
def State.withFetchWord (s : State) (nbits w : Nat) : State := placeNextWord (tableWord nbits w) s

end Sys2Proof.Machine
end

