-- ==== Sys2Proof/Safety.lean ====
section
/-!
DEFINITION. The terms that statements about the QXE use: when the engine may take a word, what a legal state is, when a run
has ended, what of the state can be observed, and the spec's own closed forms to hold the machine against.
-/
namespace Sys2Proof.Machine

/-! ## Turns and waits -/

/-- The next move is the engine's: the schedule says so, or says nothing more. -/
def engineTurn (s : State) : Bool :=
  match s.turns with
  | [] => true
  | .engine :: _ => true
  | _ => false

/-- The engine moves next, is not held in reset and has nothing left to emit: it will take a word from CMD_IN if there is one. -/
abbrev TakesWord (s : State) : Prop := engineTurn s = true ∧ s.rst = false ∧ s.emitting = []

/-- The next move resets the engine: it asserts RST, or releases it after an assertion (a release without one changes nothing:
log 20). -/
def rstTurn (s : State) : Bool :=
  match s.turns with
  | .assertRst :: _ => true
  | .releaseRst :: _ => s.rst
  | _ => false

/-- The state after the engine has taken the word in front of `rest`, before it acts on it. -/
def afterTake (s : State) (rest : List PortWord) : State := { s with cmdIn := rest, turns := s.turns.tail }

/-! ## Legal states -/

/-- The source's empty state (10_state.md R30). -/
abbrev EmptyHash (s : State) : Prop := s.total = 0 ∧ s.words = Words.zero ∧ s.cursor = 0

/-- No error has been recorded since the last hardware reset. -/
abbrev NoErrors (s : State) : Prop := s.illop = false ∧ s.rsvd = false ∧ s.wrap = false

/-- Every piece of the engine's state has its value of 10_state.md R34. -/
abbrev ResetValues (s : State) : Prop :=
  EmptyHash s ∧ NoErrors s ∧ s.phase = .idle ∧ s.rspq = [] ∧ s.emitting = []

/-- A payload is awaited only while bytes are missing, and N is a 28-bit count (10_state.md R29, 30_encoding.md R83). -/
def phaseOk : Phase → Bool
  | .idle => true
  | .payload n buf => decide (buf.length < n ∧ n < Config.addLimit)

/-- The invariants of the machine (10_state.md R20, R23, R29, R35; 20_memory.md R51 to R53). -/
structure Inv (s : State) : Prop where
  /-- 10_state.md R35, item 1. -/
  cursor_lt : s.cursor.toNat < 160
  /-- 10_state.md R35, item 3. -/
  w2_high : s.words.w2 >>> 39 = 0
  /-- 00_scope.md R6. -/
  depth_pos : 1 ≤ s.rspDepth
  /-- 10_state.md R20. -/
  rspq_le : s.rspq.length ≤ s.rspDepth
  /-- 10_state.md R29. -/
  phase_ok : phaseOk s.phase = true
  /-- A command that still emits is no ADD, and the command port is at a command boundary (20_memory.md R51). -/
  emit_idle : s.emitting ≠ [] → s.phase = .idle
  /-- 20_memory.md R53. -/
  rst_held : s.rst = true → ResetValues s

/-- While the count has not wrapped, the cursor is 11 times the count, modulo 160 (10_state.md R35, item 5). -/
abbrev CursorTracksCount (s : State) : Prop :=
  s.wrap = false → s.cursor.toNat = (11 * (s.total.toNat % 160)) % 160

/-- A run has ended: every delivered word is consumed, PHASE is IDLE, every response is taken (70_reset_and_hazards.md R252). -/
abbrev RunEnded (s : State) : Prop :=
  s.turns = [] ∧ s.cmdIn = [] ∧ s.phase = .idle ∧ s.emitting = [] ∧ s.rspq = []

/-! ## What can be observed -/

/-- Equal in everything but the bits W[2][63:32], which no command reads (10_state.md R22): no statement may depend on
those bits (92_eei_decisions.md D14; log 8). -/
abbrev SameButUnobserved (s t : State) : Prop :=
  logical s.words = logical t.words ∧ { s with words := Words.zero } = { t with words := Words.zero }

/-- Every response word the engine has produced, oldest first: taken by the host, queued, or still to be emitted. -/
def responses (s : State) : List PortWord := s.taken ++ s.rspq ++ s.emitting

/-- How many response words a command emits (30_encoding.md R88). -/
def responseLength : Instr → Nat
  | .reset => 0
  | .add _ => 0
  | .digest => 5
  | .b64digest => 7
  | .rdstat => 3
  | .rdcfg => 1

/-- The commands that only emit (20_memory.md R58). -/
def isReader (i : Instr) : Bool := decide (0 < responseLength i)

/-! ## The spec's closed forms -/

/-- One byte of the byte-serial form (40_add.md R120). -/
def serialByte (s : State) (b : Byte) : State :=
  { s with
    words := place s.words s.cursor.toNat b
    cursor := BitVec.ofNat 8 ((s.cursor.toNat + 11) % 160)
    wrap := s.wrap || decide (2 ^ 64 ≤ s.total.toNat + 1)
    total := s.total + 1 }

/-- What byte `b`, at index `k` of an ADD that starts at cursor `c`, brings to logical bit `p`: its bit `t` where
p = (c + 11 k + t) mod 160, and nothing where there is no such t (40_add.md R122). -/
def byteAtBit (c p : Nat) (b : Byte) (k : Nat) : Bool :=
  (List.range 8).any fun t => decide ((c + 11 * k + t) % 160 = p) && b.getLsbD t

/-- What all bytes of an ADD that starts at cursor `c` bring to logical bit `p` (40_add.md R122). -/
def bytesAtBit (c p : Nat) (d : List Byte) : Bool :=
  d.zipIdx.foldl (fun acc bk => acc ^^ byteAtBit c p bk.1 bk.2) false

/-- The digest as one 160-bit number (41_digest.md R142). -/
def digestNumber (s : State) : BitVec 160 := logical s.words ^^^ (BitVec.setWidth 160 s.total <<< 96)

/-- A byte sequence read as a little-endian number. -/
def littleEndian : List Byte → Nat
  | [] => 0
  | b :: rest => b.toNat + 256 * littleEndian rest

/-- The index of a base64 character, as a standard decoder reads it (41_digest.md R152). -/
def base64Index (c : Byte) : Option (BitVec 6) :=
  if 0x41 ≤ c.toNat ∧ c.toNat ≤ 0x5A then some (BitVec.ofNat 6 (c.toNat - 0x41))
  else if 0x61 ≤ c.toNat ∧ c.toNat ≤ 0x7A then some (BitVec.ofNat 6 (c.toNat - 0x61 + 26))
  else if 0x30 ≤ c.toNat ∧ c.toNat ≤ 0x39 then some (BitVec.ofNat 6 (c.toNat - 0x30 + 52))
  else if c.toNat = 0x2B then some 62
  else if c.toNat = 0x2F then some 63
  else none

/-- The three bytes of four base64 indices. -/
def base64Group (i0 i1 i2 i3 : BitVec 6) : List Byte :=
  let v : BitVec 24 := i0 ++ i1 ++ i2 ++ i3
  [v.extractLsb' 16 8, v.extractLsb' 8 8, v.extractLsb' 0 8]

/-- A standard base64 decoder: four characters at a time, with `=` padding only in the last four, and the padding's unused bits
zero (RFC 4648; 41_digest.md R155). -/
def base64Decode : List Byte → Option (List Byte)
  | [] => some []
  | c0 :: c1 :: c2 :: c3 :: rest =>
    match base64Index c0, base64Index c1, base64Index c2, base64Index c3 with
    | some i0, some i1, some i2, some i3 =>
      match base64Decode rest with
      | some bs => some (base64Group i0 i1 i2 i3 ++ bs)
      | none => none
    | some i0, some i1, some i2, none =>
      if c3 = 0x3D ∧ rest = [] ∧ i2.toNat % 4 = 0 then some ((base64Group i0 i1 i2 0).take 2) else none
    | some i0, some i1, none, none =>
      if c2 = 0x3D ∧ c3 = 0x3D ∧ rest = [] ∧ i1.toNat % 16 = 0 then some ((base64Group i0 i1 0 0).take 1) else none
    | _, _, _, _ => none
  | _ => none

end Sys2Proof.Machine
end

