-- ==== Sys2Proof/Certificates/Slice0/Obligations.lean ====
section
/-!
DEFINITION. The statements for the provers, from the numbered rules of spec/. Every statement holds for every RSP_DEPTH (log 4),
and none depends on the bits W[2][38:32] that an ADD leaves (10_state.md R22; log 8).
-/
open Sys2Proof Sys2Proof.Machine

/-! ## Encoding -/

/-- Words written out from the tables of 30_encoding.md R81 and R92 decode to the commands they stand for. -/
def Obligations.SampleWordsDecode : Prop :=
  decode 0x10000000 = .ok .reset ∧ decode 0x2000000C = .ok (.add 12) ∧ decode 0x2FFFFFFF = .ok (.add 268435455) ∧
  decode 0x30000000 = .ok .digest ∧ decode 0x40000000 = .ok .b64digest ∧ decode 0x50000000 = .ok .rdstat ∧
  decode 0x60000000 = .ok .rdcfg ∧ decode 0x60000001 = .error .rsvd ∧ decode 0x7FFFFFFF = .error .illop

/-- Decode and encode agree: no bit of a command's word is dropped (30_encoding.md R80, R81, R83). -/
def Obligations.DecodeOfEncodeIsTheCommand : Prop :=
  ∀ i : Instr, i.WellFormed → decode (encode i) = .ok i

/-- A legal word is the word of exactly one command, a well-formed one (30_encoding.md R85). -/
def Obligations.LegalWordIsTheWordOfItsCommand : Prop :=
  ∀ (c : PortWord) (i : Instr), decode c = .ok i → i.WellFormed ∧ encode i = c

/-- Every word is legal or illegal as its opcode (c / 2^28) and its argument (c mod 2^28) say (30_encoding.md R82, R85;
60_exceptions.md R204). -/
def Obligations.EveryWordIsClassifiedByItsFields : Prop :=
  ∀ c : PortWord,
    (decode c = .error .illop ↔ c.toNat / 2 ^ 28 = 0 ∨ 7 ≤ c.toNat / 2 ^ 28) ∧
    (decode c = .error .rsvd ↔ c.toNat / 2 ^ 28 ∈ [1, 3, 4, 5, 6] ∧ c.toNat % 2 ^ 28 ≠ 0) ∧
    (decode c = .ok .reset ↔ c.toNat = 0x10000000) ∧
    (decode c = .ok .digest ↔ c.toNat = 0x30000000) ∧
    (decode c = .ok .b64digest ↔ c.toNat = 0x40000000) ∧
    (decode c = .ok .rdstat ↔ c.toNat = 0x50000000) ∧
    (decode c = .ok .rdcfg ↔ c.toNat = 0x60000000)

/-- The ADD argument is the low 28 bits, unsigned and unscaled (30_encoding.md R83). -/
def Obligations.AddLengthIsTheArgumentField : Prop :=
  ∀ (c : PortWord) (n : Nat), decode c = .ok (.add n) ↔ c.toNat / 2 ^ 28 = 2 ∧ n = c.toNat % 2 ^ 28

/-! ## The command port -/

/-- A step that takes a command word runs exec on the decoded command, with the word consumed and the turn used up. -/
def Obligations.StepRunsTheDecodedCommand : Prop :=
  ∀ (s : State) (v : PortWord) (rest : List PortWord) (i : Instr),
    TakesWord s → s.phase = .idle → s.cmdIn = v :: rest → decode v = .ok i →
    step s = exec i { s with cmdIn := rest, turns := s.turns.tail }

/-- A word with OP 0x0 or 0x7 to 0xF sets ILLOP, is discarded, and does nothing else (60_exceptions.md R200). -/
def Obligations.IllegalOpcodeSetsIllopAlone : Prop :=
  ∀ (s : State) (v : PortWord) (rest : List PortWord),
    TakesWord s → s.phase = .idle → s.cmdIn = v :: rest → (v.toNat / 2 ^ 28 = 0 ∨ 7 ≤ v.toNat / 2 ^ 28) →
    step s = .next { s with cmdIn := rest, turns := s.turns.tail, illop := true }

/-- A word of another command than ADD with a nonzero ARG sets RSVD, is not executed, and does nothing else
(60_exceptions.md R201). -/
def Obligations.ReservedArgumentSetsRsvdAlone : Prop :=
  ∀ (s : State) (v : PortWord) (rest : List PortWord),
    TakesWord s → s.phase = .idle → s.cmdIn = v :: rest →
    v.toNat / 2 ^ 28 ∈ [1, 3, 4, 5, 6] → v.toNat % 2 ^ 28 ≠ 0 →
    step s = .next { s with cmdIn := rest, turns := s.turns.tail, rsvd := true }

/-- With no word delivered the engine waits, in IDLE and in PAYLOAD alike, and nothing changes but the used-up turn
(60_exceptions.md R209). That a wait is a next state is the model's reading (log 14). -/
def Obligations.EngineWaitsForAWord : Prop :=
  ∀ s : State, TakesWord s → s.cmdIn = [] → step s = .next { s with turns := s.turns.tail }

/-- A command that waits for room emits as many of its words as fit, in order, and takes no word meanwhile
(20_memory.md R51, R52). That one move fills all the room is DEDUCED (log 6); that a wait on a full RSPQ, the case k = 0, is
a next state is the model's choice (log 14). -/
def Obligations.WaitingEmitsFillTheRoom : Prop :=
  ∀ (s : State) (vs : List PortWord),
    engineTurn s = true → s.rst = false → s.emitting = vs → vs ≠ [] →
    (∀ k, k ≤ vs.length → s.rspq.length + k = s.rspDepth →
      step s = .next { s with turns := s.turns.tail, rspq := s.rspq ++ vs.take k, emitting := vs.drop k }) ∧
    (s.rspq.length + vs.length ≤ s.rspDepth →
      step s = .next { s with turns := s.turns.tail, rspq := s.rspq ++ vs, emitting := [] })

/-- A command that waits on a full RSPQ finishes as the host takes: each taken response makes room for the next word, in order
(20_memory.md R52, 70_reset_and_hazards.md R251). The order of the moves is the model's list of turns (log 2), and that one
engine move fills the room is DEDUCED (log 6). -/
def Obligations.WaitingCommandFinishesAsTheHostTakes : Prop :=
  ∀ s : State, s.rst = false → 1 ≤ s.rspDepth → s.rspq.length = s.rspDepth →
    s.turns = (List.replicate s.emitting.length [Turn.take, Turn.engine]).flatten →
    Host.Core.run Sys2Proof.core (2 * s.emitting.length) s = .next { s with
      turns := [], emitting := []
      taken := s.taken ++ (s.rspq ++ s.emitting).take s.emitting.length
      rspq := (s.rspq ++ s.emitting).drop s.emitting.length }

/-- A word taken in PAYLOAD(n, buf) is payload whatever its value: its lanes are appended, and with the last of the n bytes
the ADD executes and PHASE returns to IDLE (30_encoding.md R86). That this is one step per word, with the whole ADD in the last,
is the model's choice (logs 13 and 16). -/
def Obligations.PayloadWordExtendsOrCompletesTheAdd : Prop :=
  ∀ (s : State) (n : Nat) (buf : List Byte) (v : PortWord) (rest : List PortWord),
    TakesWord s → s.phase = .payload n buf → buf.length < n → s.cmdIn = v :: rest →
    let bytes := (List.range 4).map fun L => BitVec.ofNat 8 (v.toNat / 256 ^ L)
    (buf.length + 4 < n →
      step s = .next { s with cmdIn := rest, turns := s.turns.tail, phase := .payload n (buf ++ bytes) }) ∧
    (n ≤ buf.length + 4 →
      step s = .next { addBytes (buf ++ bytes.take (n - buf.length)) { s with cmdIn := rest, turns := s.turns.tail } with
        phase := .idle })

/-- A byte sequence of length m is carried in ceil(m/4) words, byte k in lane k mod 4 of word k / 4 (20_memory.md R54), and the
lanes give it back. -/
def Obligations.PackedBytesLieInTheirLanes : Prop :=
  ∀ d : List Byte,
    (packWords d).length = (d.length + 3) / 4 ∧
    (∀ k, k < d.length → lane ((packWords d).getD (k / 4) 0) (k % 4) = d.getD k 0) ∧
    ((packWords d).flatMap lanes).take d.length = d

/-- The whole ADD command on the port: the command word, then ceil(N/4) payload words that carry the bytes in little-endian
lanes with any padding; after as many steps the ADD has executed with exactly these bytes (30_encoding.md R86, R87). The count
of the steps, one for each word with the whole ADD in the last, is the model's choice (logs 13 and 16). The host does nothing
in between: what each word does with host acts around it is said by StepRunsTheDecodedCommand and
PayloadWordExtendsOrCompletesTheAdd. -/
def Obligations.AddCommandRunsWithItsPayload : Prop :=
  ∀ (s : State) (d : List Byte) (ws rest : List PortWord),
    s.turns = [] → s.rst = false → s.emitting = [] → s.phase = .idle →
    d.length < 2 ^ 28 → ws.length = (d.length + 3) / 4 → (ws.flatMap lanes).take d.length = d →
    s.cmdIn = encode (.add d.length) :: (ws ++ rest) →
    commandLength (encode (.add d.length)) = 1 + ws.length ∧
    Host.Core.run Sys2Proof.core (1 + ws.length) s = .next (addBytes d { s with cmdIn := rest })

/-! ## ADD -/

/-- An ADD word with N > 0 opens its payload and does nothing else yet (30_encoding.md R82, R86); the payload comes in later
steps (log 13). -/
def Obligations.AddOpensItsPayload : Prop :=
  ∀ (n : Nat) (s : State), 0 < n → exec (.add n) s = .next { s with phase := .payload n [] }

/-- An ADD with N = 0, the one word 0x20000000, executes at once and leaves every piece of state as it was (40_add.md R110). -/
def Obligations.EmptyAddChangesNothing : Prop :=
  encode (.add 0) = 0x20000000 ∧ payloadWords 0 = 0 ∧
  ∀ s : State, s.cursor.toNat < 160 → exec (.add 0) s = .next s

/-- The cursor's one update (40_add.md R108). -/
def Obligations.AddAdvancesTheCursor : Prop :=
  ∀ (d : List Byte) (s : State),
    (addBytes d s).cursor.toNat = (s.cursor.toNat + 11 * (d.length % 160)) % 160

/-- The count modulo 2^64, WRAP set exactly when the exact sum reaches 2^64, and the rest of the ADD unaffected by the count
(40_add.md R109). -/
def Obligations.AddCountsItsBytes : Prop :=
  ∀ (d : List Byte) (s : State),
    (addBytes d s).total.toNat = (s.total.toNat + d.length) % 2 ^ 64 ∧
    (addBytes d s).wrap = (s.wrap || decide (2 ^ 64 ≤ s.total.toNat + d.length)) ∧
    ∀ x, logical (addBytes d { s with total := x }).words = logical (addBytes d s).words ∧
      (addBytes d { s with total := x }).cursor = (addBytes d s).cursor

/-- An ADD writes words, cursor, count and WRAP, and nothing else (10_state.md R31, 40_add.md R100). -/
def Obligations.AddWritesNothingElse : Prop :=
  ∀ (d : List Byte) (s : State),
    addBytes d s = { s with
      words := (addBytes d s).words, cursor := (addBytes d s).cursor
      total := (addBytes d s).total, wrap := (addBytes d s).wrap }

/-- PLACE XORs bit t of its byte into logical bit p + t, circularly, and into no other: the primary XOR and the spill together
lose nothing (40_add.md R105, R113, R114). -/
def Obligations.PlaceXorsEachBitOfItsByte : Prop :=
  ∀ (W : Words) (p q : Nat) (b : Byte), p < 160 → q < 160 →
    (logical (place W p b)).getLsbD q = ((logical W).getLsbD q ^^ b.getLsbD ((q + 160 - p) % 160))

/-- PLACE is XOR-linear in its byte, and calls at any positions commute (40_add.md R115), as far as the words are observed. -/
def Obligations.PlaceIsLinearAndCommutes : Prop :=
  ∀ (W : Words) (p q : Nat) (a b : Byte), p < 160 → q < 160 →
    logical (place (place W p a) p b) = logical (place W p (a ^^^ b)) ∧
    logical (place W p 0) = logical W ∧
    logical (place (place W p a) q b) = logical (place (place W q b) p a)

/-- At the entry of iteration i the loop's pair is the position (c0 + 11 i) mod 160, inside its cell, so that the primary shift
is below the cell's size and a spill shift is 1 to 7 (40_add.md R112). -/
def Obligations.LoopPairIsThePosition : Prop :=
  ∀ (d : List Byte) (c : BitVec 8) (W : Words) (i : Nat), c.toNat < 160 →
    (placeLoop d c W i).wi = (c.toNat + 11 * i) % 160 / 64 ∧
    (placeLoop d c W i).bo = (c.toNat + 11 * i) % 160 % 64 ∧
    (placeLoop d c W i).bo < cellSize (placeLoop d c W i).wi ∧
    (cellSize (placeLoop d c W i).wi - 8 < (placeLoop d c W i).bo →
      1 ≤ cellSize (placeLoop d c W i).wi - (placeLoop d c W i).bo ∧
      cellSize (placeLoop d c W i).wi - (placeLoop d c W i).bo ≤ 7)

/-- After an ADD, logical bit p is its old value XOR bit t of every byte d[k] with p = (c0 + 11 k + t) mod 160: the bound on
the loop, the fold, the placement and the spill together amount to this (40_add.md R101 to R106, R122). -/
def Obligations.AddXorsEveryByteAtItsPosition : Prop :=
  ∀ (d : List Byte) (s : State) (p : Nat), s.cursor.toNat < 160 → p < 160 →
    (logical (addBytes d s).words).getLsbD p =
      ((logical s.words).getLsbD p ^^ bytesAtBit s.cursor.toNat p d)

/-- An ADD has the effect of the byte-serial form (40_add.md R120), in all that can be observed. -/
def Obligations.AddEqualsByteSerialForm : Prop :=
  ∀ (d : List Byte) (s : State), s.cursor.toNat < 160 →
    SameButUnobserved (addBytes d s) (d.foldl serialByte s)

/-- Chunking invariance: ADDs of consecutive pieces leave what one ADD of the whole leaves, in all that can be observed, the
digest included (40_add.md R121). -/
def Obligations.AddIsChunkingInvariant : Prop :=
  ∀ (pieces : List (List Byte)) (s : State), s.cursor.toNat < 160 →
    SameButUnobserved (pieces.foldl (fun t c => addBytes c t) s) (addBytes pieces.flatten s) ∧
    digestBytes (pieces.foldl (fun t c => addBytes c t) s) = digestBytes (addBytes pieces.flatten s)

/-- Bytes a multiple of 160 apart land at one position: a sequence of whole windows added twice in one ADD cancels in the
words and in the cursor, though not in the count (40_add.md R123). -/
def Obligations.RepeatedWindowsCancel : Prop :=
  ∀ (d : List Byte) (s : State), d.length % 160 = 0 → s.cursor.toNat < 160 →
    logical (addBytes (d ++ d) s).words = logical s.words ∧
    (addBytes (d ++ d) s).cursor = s.cursor ∧
    (addBytes (d ++ d) s).total.toNat = (s.total.toNat + 2 * d.length) % 2 ^ 64

/-- An ADD of exactly 160 bytes places one byte at every position: each position is that of exactly one iteration of its loop;
from cursor 0 the iteration 131 p mod 160 is the one at position p; and the cursor is where it was (40_add.md R124). -/
def Obligations.FullWindowCoversEveryPosition : Prop :=
  ∀ (d : List Byte) (s : State), d.length = 160 → s.cursor.toNat < 160 →
    let position := fun i => (placeLoop d s.cursor s.words i).wi * 64 + (placeLoop d s.cursor s.words i).bo
    (∀ p, p < 160 → ∃ i, i < d.length ∧ position i = p ∧ ∀ j, j < d.length → position j = p → j = i) ∧
    (s.cursor = 0 → ∀ p, p < 160 → position ((131 * p) % 160) = p) ∧
    (addBytes d s).cursor = s.cursor

/-- The order of ADDs matters: two sequences whose two orders give different digests (40_add.md R111). -/
def Obligations.AddIsNotCommutative : Prop :=
  ∃ a b : List Byte,
    digestBytes (addBytes b (addBytes a State.reset)) ≠ digestBytes (addBytes a (addBytes b State.reset))

/-! ## DIGEST and B64DIGEST -/

/-- DIGEST, with room for its words, appends exactly the five words of 20_memory.md R56, slices of the digest number, and
changes nothing else. -/
def Obligations.DigestRespondsWithItsSlices : Prop :=
  ∀ s : State, s.emitting = [] → s.rspq.length + 5 ≤ s.rspDepth →
    exec .digest s = .next { s with rspq := s.rspq ++
      [s.words.w0.setWidth 32, (s.words.w0 >>> 32).setWidth 32, s.words.w1.setWidth 32,
       (s.words.w1 >>> 32).setWidth 32 ^^^ s.total.setWidth 32,
       s.words.w2.setWidth 32 ^^^ (s.total >>> 32).setWidth 32] } ∧
    exec .digest s = .next { s with rspq := s.rspq ++
      ((List.range 5).map fun q => (digestNumber s).extractLsb' (32 * q) 32) }

/-- The 20 digest bytes, read little-endian, are the digest number: the words with the count XORed in at bit 96
(41_digest.md R142). -/
def Obligations.DigestBytesAreTheDigestNumber : Prop :=
  ∀ s : State,
    (digestBytes s).length = 20 ∧
    littleEndian (digestBytes s) = (digestNumber s).toNat ∧
    digestNumber s =
      ((BitVec.setWidth 32 s.words.w2 ++ s.words.w1 ++ s.words.w0 : BitVec (32 + 64 + 64)) ^^^
        (BitVec.setWidth 160 s.total <<< 96)) ∧
    (digestNumber s).extractLsb' 0 96 = (s.words.w1.setWidth 32 ++ s.words.w0 : BitVec (32 + 64)) ∧
    (digestNumber s).extractLsb' 96 64 =
      ((s.words.w2.setWidth 32 ++ (s.words.w1 >>> 32).setWidth 32 : BitVec (32 + 32)) ^^^ s.total)

/-- On the empty state the digest is 20 zero bytes, its text is 27 times `A` and one `=`, and DIGEST emits five zero words
(41_digest.md R145). -/
def Obligations.EmptyDigestIsZero : Prop :=
  ∀ s : State, EmptyHash s →
    digestBytes s = List.replicate 20 0 ∧ base64 (digestBytes s) = List.replicate 27 0x41 ++ [0x3D] ∧
    (s.emitting = [] → s.rspq.length + 5 ≤ s.rspDepth →
      exec .digest s = .next { s with rspq := s.rspq ++ [0, 0, 0, 0, 0] })

/-- States with the same words and different counts have different digests, which agree in the first 12 bytes
(41_digest.md R146). -/
def Obligations.DigestSeesTheCount : Prop :=
  ∀ (s : State) (x : BitVec 64),
    (digestBytes { s with total := x }).take 12 = (digestBytes s).take 12 ∧
    (x ≠ s.total → (digestBytes { s with total := x }).drop 12 ≠ (digestBytes s).drop 12)

/-- B64DIGEST, with room for its words, appends the 28 characters in seven little-endian words, the last with `=` in bits
[31:24], and changes nothing else (41_digest.md R150, R153). -/
def Obligations.B64DigestRespondsWithItsText : Prop :=
  ∀ s : State, s.emitting = [] → s.rspq.length + 7 ≤ s.rspDepth →
    let T := base64 (digestBytes s)
    let word := fun q => BitVec.ofNat 32 ((T.getD (4 * q) 0).toNat + (T.getD (4 * q + 1) 0).toNat * 2 ^ 8 +
      (T.getD (4 * q + 2) 0).toNat * 2 ^ 16 + (T.getD (4 * q + 3) 0).toNat * 2 ^ 24)
    exec .b64digest s = .next { s with rspq := s.rspq ++ (List.range 7).map word } ∧ (word 6).toNat / 2 ^ 24 = 0x3D

/-- The standard alphabet, all 64 characters and the pad (41_digest.md R152). -/
def Obligations.Base64AlphabetIsTheTable : Prop :=
  (∀ i : BitVec 6, (base64Char i).toNat =
    if i.toNat ≤ 25 then 0x41 + i.toNat else if i.toNat ≤ 51 then 0x61 + (i.toNat - 26)
    else if i.toNat ≤ 61 then 0x30 + (i.toNat - 52) else if i.toNat = 62 then 0x2B else 0x2F) ∧
  base64Pad = 0x3D

/-- A standard base64 decoder gives back every encoded byte sequence, and so the 20 digest bytes (41_digest.md R155). The decoder
is the model's, PRESUMED from RFC 4648 with the padding's unused bits zero (log 10), and the clause over every byte sequence
goes beyond R155, which is about the digest. -/
def Obligations.Base64RoundTrips : Prop :=
  (∀ B : List Byte, base64Decode (base64 B) = some B) ∧
  ∀ s : State, base64Decode (base64 (digestBytes s)) = some (digestBytes s)

/-- The text is 28 characters, the last `=` and no other; the rest are characters of the alphabet, hence no line break and no
space; character 26 is the one for the low four bits of the last byte, followed by 00 (41_digest.md R154). -/
def Obligations.Base64TextHasItsShape : Prop :=
  ∀ s : State,
    let T := base64 (digestBytes s)
    T.length = 28 ∧ T.getD 27 0 = 0x3D ∧
    (∀ k, k < 27 → T.getD k 0 ≠ 0x3D ∧ ∃ i : BitVec 6, T.getD k 0 = base64Char i) ∧
    T.getD 26 0 = base64Char (BitVec.ofNat 6 (((digestBytes s).getD 19 0).toNat % 16 * 4))

/-! ## RESET, RDSTAT and RDCFG -/

/-- RESET zeroes the words (all 64 bits of each), the cursor and the count, and leaves the flags, RSPQ and everything else
(42_control.md R170). -/
def Obligations.ResetCommandEmptiesTheHash : Prop :=
  encode .reset = 0x10000000 ∧ ∀ s : State, exec .reset s = .next { s with words := { w0 := 0, w1 := 0, w2 := 0 }, cursor := 0, total := 0 }

/-- After RESET, from any state, words, cursor and count equal their values after hardware reset, and so do the digest and its
text (42_control.md R171). -/
def Obligations.ResetCommandGivesAFreshHash : Prop :=
  ∀ s : State, ∃ t, exec .reset s = .next t ∧
    t.words = State.reset.words ∧ t.cursor = State.reset.cursor ∧ t.total = State.reset.total ∧
    digestBytes t = digestBytes State.reset ∧ base64 (digestBytes t) = base64 (digestBytes State.reset)

/-- RDSTAT, with room for its words, appends STATUS (cursor, then ILLOP at bit 8, RSVD at bit 9, WRAP at bit 10) and the two
halves of the count, and changes nothing else (42_control.md R175). -/
def Obligations.RdstatRespondsWithStatusAndCount : Prop :=
  encode .rdstat = 0x50000000 ∧ ∀ s : State, s.emitting = [] → s.rspq.length + 3 ≤ s.rspDepth →
    exec .rdstat s = .next { s with rspq := s.rspq ++
      [BitVec.ofNat 32 (s.cursor.toNat + s.illop.toNat * 2 ^ 8 + s.rsvd.toNat * 2 ^ 9 + s.wrap.toNat * 2 ^ 10),
       BitVec.ofNat 32 (s.total.toNat % 2 ^ 32), BitVec.ofNat 32 (s.total.toNat / 2 ^ 32)] }

/-- RDCFG, with room for its word, appends 0x03140BA0 in every state, and changes nothing else (42_control.md R180,
10_state.md R28). -/
def Obligations.RdcfgRespondsWithTheConfiguration : Prop :=
  encode .rdcfg = 0x60000000 ∧ ∀ s : State, s.emitting = [] → s.rspq.length + 1 ≤ s.rspDepth →
    exec .rdcfg s = .next { s with rspq := s.rspq ++ [0x03140BA0] }

/-- Whatever the depth and the room, each reading command emits the same words, as many as 30_encoding.md R88 says: those
that fit go to RSPQ, the others wait in order, and nothing else changes (20_memory.md R52, R58). -/
def Obligations.ReadersEmitTheSameWordsWhateverTheRoom : Prop :=
  ∀ (i : Instr) (s : State), isReader i = true →
    ∃ ws : List PortWord, ws.length = responseLength i ∧
      ∀ (q : List PortWord) (depth : Nat),
        exec i { s with rspq := q, emitting := [], rspDepth := depth } =
          .next { s with
            rspq := q ++ ws.take (depth - q.length), emitting := ws.drop (depth - q.length), rspDepth := depth }

/-- A reading command executed twice in a row adds the same words to the responses both times (20_memory.md R58,
41_digest.md R144). -/
def Obligations.ReadersAreRepeatable : Prop :=
  ∀ (i : Instr) (s t u : State), isReader i = true → exec i s = .next t → exec i t = .next u →
    ∃ ws : List PortWord, ws.length = responseLength i ∧
      responses t = responses s ++ ws ∧ responses u = responses t ++ ws

/-! ## Reset and the host -/

/-- Asserting RST, at any time and in any state, gives every piece of the engine's state its reset value: an ADD in progress
is discarded, queued responses are lost (70_reset_and_hazards.md R230, R231). -/
def Obligations.AssertRstResetsTheEngine : Prop :=
  ∀ (s : State) (rest : List Turn), s.turns = .assertRst :: rest →
    ∃ t, step s = .next t ∧ t.rst = true ∧ t.words = { w0 := 0, w1 := 0, w2 := 0 } ∧ t.cursor = 0 ∧ t.total = 0 ∧
      t.illop = false ∧ t.rsvd = false ∧ t.wrap = false ∧ t.phase = .idle ∧ t.rspq = [] ∧ t.emitting = []

/-- While RST is asserted the engine takes no command, and when it is then released the state has the reset values
(20_memory.md R53). -/
def Obligations.RstHoldsTheEngineUntilReleased : Prop :=
  (∀ s : State, engineTurn s = true → s.rst = true → step s = .next { s with turns := s.turns.tail }) ∧
  ∀ (s : State) (rest : List Turn), s.turns = .releaseRst :: rest → s.rst = true →
    ∃ t, step s = .next t ∧ t.rst = false ∧ t.words = State.reset.words ∧ t.cursor = State.reset.cursor ∧
      t.total = State.reset.total ∧ t.illop = State.reset.illop ∧ t.rsvd = State.reset.rsvd ∧
      t.wrap = State.reset.wrap ∧ t.phase = State.reset.phase ∧ t.rspq = State.reset.rspq

/-- A release of RST while it is not asserted, an act the spec does not give, changes nothing but the used-up turn: the model's
choice (log 20), because the state is held as long as RST is not asserted (60_exceptions.md R215). -/
def Obligations.ReleaseWithoutAssertionChangesNothing : Prop :=
  ∀ (s : State) (rest : List Turn), s.turns = .releaseRst :: rest → s.rst = false →
    step s = .next { s with turns := rest }

/-- The model's choice (log 1, log 7): RST leaves what the host has delivered and not seen taken, and what it has itself taken. -/
def Obligations.RstLeavesThePortsToTheHost : Prop :=
  ∀ s : State, rstTurn s = true →
    ∃ t, step s = .next t ∧ t.cmdIn = s.cmdIn ∧ t.taken = s.taken ∧ t.rspDepth = s.rspDepth ∧ t.turns = s.turns.tail

/-- The host takes the oldest queued response; with none queued it takes nothing, which is the model's choice (20_memory.md
R52; log 7). -/
def Obligations.HostTakesTheOldestResponse : Prop :=
  ∀ (s : State) (rest : List Turn), s.turns = .take :: rest →
    (∀ v q, s.rspq = v :: q → step s = .next { s with rspq := q, taken := s.taken ++ [v], turns := rest }) ∧
    (s.rspq = [] → step s = .next { s with turns := rest })

/-- A word the host delivers comes after every earlier one (20_memory.md R51). -/
def Obligations.DeliveredWordsKeepTheirOrder : Prop :=
  ∀ (s : State) (v : PortWord) (rest : List Turn), s.turns = .deliver v :: rest →
    step s = .next { s with cmdIn := s.cmdIn ++ [v], turns := rest }

/-! ## Whole-machine rules -/

/-- Nothing stops the machine: no word, no error and no wait ends in a fault or a refusal (60_exceptions.md R203, R206, R209). That a wait is a next state is the model's choice (log 14). -/
def Obligations.EveryStepHasANextState : Prop := ∀ s : State, ∃ t, step s = .next t

/-- The state after reset meets the invariant (10_state.md R34, R35). -/
def Obligations.ResetStateMeetsTheInvariant : Prop := Inv State.reset

/-- Every step keeps the invariant: cursor below 160, W[2][63:39] zero, RSPQ within RSP_DEPTH, PHASE with bytes missing, no
command half emitted inside an ADD, the reset values while RST is asserted (10_state.md R20, R23, R29, R35). -/
def Obligations.StepKeepsTheInvariant : Prop :=
  ∀ s t : State, Inv s → step s = .next t → Inv t

/-- After reset the cursor is 11 times the count modulo 160 (10_state.md R34, R35). -/
def Obligations.ResetStateTracksTheCount : Prop := CursorTracksCount State.reset

/-- Every step keeps the cursor at 11 times the count modulo 160, as long as WRAP is 0 (10_state.md R35, item 5). -/
def Obligations.StepKeepsTheCursorOnTheCount : Prop :=
  ∀ s t : State, CursorTracksCount s → step s = .next t → CursorTracksCount t

/-- Only RST clears an error flag (10_state.md R26). -/
def Obligations.OnlyRstClearsAFlag : Prop :=
  ∀ s t : State, step s = .next t → rstTurn s = false →
    (s.illop = true → t.illop = true) ∧ (s.rsvd = true → t.rsvd = true) ∧ (s.wrap = true → t.wrap = true)

/-- A flag rises only for its own cause, so at most one rises in a step: ILLOP and RSVD at an illegal command word, WRAP when
an ADD's payload is complete (60_exceptions.md R200 to R204). -/
def Obligations.FlagsRiseOnlyForTheirCause : Prop :=
  ∀ s t : State, step s = .next t →
    (s.illop = false → t.illop = true →
      s.phase = .idle ∧ ∃ v, s.cmdIn.head? = some v ∧ (v.toNat / 2 ^ 28 = 0 ∨ 7 ≤ v.toNat / 2 ^ 28)) ∧
    (s.rsvd = false → t.rsvd = true →
      s.phase = .idle ∧
        ∃ v, s.cmdIn.head? = some v ∧ v.toNat / 2 ^ 28 ∈ [1, 3, 4, 5, 6] ∧ v.toNat % 2 ^ 28 ≠ 0) ∧
    (s.wrap = false → t.wrap = true →
      ∃ n buf, s.phase = .payload n buf ∧ t.phase = .idle ∧ 2 ^ 64 ≤ s.total.toNat + n)

/-- Words, cursor and count change only by RST, by the word of RESET taken in IDLE, or by the last payload word of an ADD
(10_state.md R31). -/
def Obligations.OnlyAddResetAndRstChangeTheHash : Prop :=
  ∀ s t : State, s.cursor.toNat < 160 → step s = .next t → rstTurn s = false →
    ¬ (s.phase = .idle ∧ s.cmdIn.head? = some 0x10000000) →
    (¬ ∃ n buf, s.phase = .payload n buf ∧ n ≤ buf.length + 4) →
    t.words = s.words ∧ t.cursor = s.cursor ∧ t.total = s.total

/-- Between resets the count only increases, as long as WRAP is 0 (10_state.md R35, item 4). -/
def Obligations.CountOnlyIncreasesBetweenResets : Prop :=
  ∀ s t : State, step s = .next t → rstTurn s = false →
    ¬ (s.phase = .idle ∧ s.cmdIn.head? = some 0x10000000) → t.wrap = false → s.total.toNat ≤ t.total.toNat

/-- No response word is dropped, duplicated or reordered: but for RST, a step only adds words at the end of the stream of
responses, and at most seven (20_memory.md R52, 30_encoding.md R88). -/
def Obligations.ResponseStreamOnlyGrows : Prop :=
  ∀ s t : State, step s = .next t → rstTurn s = false →
    ∃ ws : List PortWord, responses t = responses s ++ ws ∧ ws.length ∈ [0, 1, 3, 5, 7] ∧
      (ws ≠ [] → s.phase = .idle ∧ s.cmdIn ≠ [])

/-- The bits W[2][63:32] never affect anything that can be observed: two states that differ there alone step alike, and stay
so (10_state.md R22, 92_eei_decisions.md D14). -/
def Obligations.UnobservedBitsNeverReachAnOutput : Prop :=
  ∀ s t s' : State, SameButUnobserved s t → step s = .next s' →
    ∃ t', step t = .next t' ∧ SameButUnobserved s' t'

/-- No command but RDSTAT sees a flag: with the flags set otherwise, a step that takes no RDSTAT word leaves a state that is the
same but for the flags (10_state.md R33; 70_reset_and_hazards.md R233). -/
def Obligations.FlagsAreSeenByRdstatAlone : Prop :=
  ∀ (s s' : State) (a b c : Bool), step s = .next s' →
    ¬ (s.phase = .idle ∧ s.cmdIn.head? = some 0x50000000) →
    ∃ a' b' c', step { s with illop := a, rsvd := b, wrap := c } = .next { s' with illop := a', rsvd := b', wrap := c' }
end

