-- ==== Sys2Proof/Laws/State.lean ====
section
/-!
SUPPORT. One lemma per field for each named update of the state, so that no proof unfolds a record update.
-/
namespace Sys2Proof.Machine

/-! ### clearHash -/

@[simp] theorem clearHash_words (s : State) : (clearHash s).words = Words.zero := rfl
@[simp] theorem clearHash_cursor (s : State) : (clearHash s).cursor = 0 := rfl
@[simp] theorem clearHash_total (s : State) : (clearHash s).total = 0 := rfl
@[simp] theorem clearHash_illop (s : State) : (clearHash s).illop = s.illop := rfl
@[simp] theorem clearHash_rsvd (s : State) : (clearHash s).rsvd = s.rsvd := rfl
@[simp] theorem clearHash_wrap (s : State) : (clearHash s).wrap = s.wrap := rfl
@[simp] theorem clearHash_phase (s : State) : (clearHash s).phase = s.phase := rfl
@[simp] theorem clearHash_rspq (s : State) : (clearHash s).rspq = s.rspq := rfl
@[simp] theorem clearHash_emitting (s : State) : (clearHash s).emitting = s.emitting := rfl
@[simp] theorem clearHash_cmdIn (s : State) : (clearHash s).cmdIn = s.cmdIn := rfl
@[simp] theorem clearHash_rst (s : State) : (clearHash s).rst = s.rst := rfl
@[simp] theorem clearHash_taken (s : State) : (clearHash s).taken = s.taken := rfl
@[simp] theorem clearHash_turns (s : State) : (clearHash s).turns = s.turns := rfl
@[simp] theorem clearHash_rspDepth (s : State) : (clearHash s).rspDepth = s.rspDepth := rfl

/-! ### hardReset -/

@[simp] theorem hardReset_words (s : State) : (hardReset s).words = Words.zero := rfl
@[simp] theorem hardReset_cursor (s : State) : (hardReset s).cursor = 0 := rfl
@[simp] theorem hardReset_total (s : State) : (hardReset s).total = 0 := rfl
@[simp] theorem hardReset_illop (s : State) : (hardReset s).illop = false := rfl
@[simp] theorem hardReset_rsvd (s : State) : (hardReset s).rsvd = false := rfl
@[simp] theorem hardReset_wrap (s : State) : (hardReset s).wrap = false := rfl
@[simp] theorem hardReset_phase (s : State) : (hardReset s).phase = .idle := rfl
@[simp] theorem hardReset_rspq (s : State) : (hardReset s).rspq = [] := rfl
@[simp] theorem hardReset_emitting (s : State) : (hardReset s).emitting = [] := rfl
@[simp] theorem hardReset_cmdIn (s : State) : (hardReset s).cmdIn = s.cmdIn := rfl
@[simp] theorem hardReset_rst (s : State) : (hardReset s).rst = s.rst := rfl
@[simp] theorem hardReset_taken (s : State) : (hardReset s).taken = s.taken := rfl
@[simp] theorem hardReset_turns (s : State) : (hardReset s).turns = s.turns := rfl
@[simp] theorem hardReset_rspDepth (s : State) : (hardReset s).rspDepth = s.rspDepth := rfl

/-! ### hostAssertRst -/

@[simp] theorem hostAssertRst_words (s : State) : (hostAssertRst s).words = Words.zero := rfl
@[simp] theorem hostAssertRst_cursor (s : State) : (hostAssertRst s).cursor = 0 := rfl
@[simp] theorem hostAssertRst_total (s : State) : (hostAssertRst s).total = 0 := rfl
@[simp] theorem hostAssertRst_illop (s : State) : (hostAssertRst s).illop = false := rfl
@[simp] theorem hostAssertRst_rsvd (s : State) : (hostAssertRst s).rsvd = false := rfl
@[simp] theorem hostAssertRst_wrap (s : State) : (hostAssertRst s).wrap = false := rfl
@[simp] theorem hostAssertRst_phase (s : State) : (hostAssertRst s).phase = .idle := rfl
@[simp] theorem hostAssertRst_rspq (s : State) : (hostAssertRst s).rspq = [] := rfl
@[simp] theorem hostAssertRst_emitting (s : State) : (hostAssertRst s).emitting = [] := rfl
@[simp] theorem hostAssertRst_cmdIn (s : State) : (hostAssertRst s).cmdIn = s.cmdIn := rfl
@[simp] theorem hostAssertRst_rst (s : State) : (hostAssertRst s).rst = true := rfl
@[simp] theorem hostAssertRst_taken (s : State) : (hostAssertRst s).taken = s.taken := rfl
@[simp] theorem hostAssertRst_turns (s : State) : (hostAssertRst s).turns = s.turns := rfl
@[simp] theorem hostAssertRst_rspDepth (s : State) : (hostAssertRst s).rspDepth = s.rspDepth := rfl

/-! ### hostReleaseRst: a release after an assertion, and one without (log 20) -/

theorem hostReleaseRst_of_asserted {s : State} (h : s.rst = true) :
    hostReleaseRst s = { hardReset s with rst := false } := by simp [hostReleaseRst, h]

@[simp] theorem hostReleaseRst_of_released {s : State} (h : s.rst = false) : hostReleaseRst s = s := by
  simp [hostReleaseRst, h]

@[simp] theorem hostReleaseRst_words (s : State) : (hostReleaseRst s).words = if s.rst then Words.zero else s.words := by
  cases h : s.rst <;> simp [hostReleaseRst, h]
@[simp] theorem hostReleaseRst_cursor (s : State) : (hostReleaseRst s).cursor = if s.rst then 0 else s.cursor := by
  cases h : s.rst <;> simp [hostReleaseRst, h]
@[simp] theorem hostReleaseRst_total (s : State) : (hostReleaseRst s).total = if s.rst then 0 else s.total := by
  cases h : s.rst <;> simp [hostReleaseRst, h]
@[simp] theorem hostReleaseRst_illop (s : State) : (hostReleaseRst s).illop = if s.rst then false else s.illop := by
  cases h : s.rst <;> simp [hostReleaseRst, h]
@[simp] theorem hostReleaseRst_rsvd (s : State) : (hostReleaseRst s).rsvd = if s.rst then false else s.rsvd := by
  cases h : s.rst <;> simp [hostReleaseRst, h]
@[simp] theorem hostReleaseRst_wrap (s : State) : (hostReleaseRst s).wrap = if s.rst then false else s.wrap := by
  cases h : s.rst <;> simp [hostReleaseRst, h]
@[simp] theorem hostReleaseRst_phase (s : State) : (hostReleaseRst s).phase = if s.rst then .idle else s.phase := by
  cases h : s.rst <;> simp [hostReleaseRst, h]
@[simp] theorem hostReleaseRst_rspq (s : State) : (hostReleaseRst s).rspq = if s.rst then [] else s.rspq := by
  cases h : s.rst <;> simp [hostReleaseRst, h]
@[simp] theorem hostReleaseRst_emitting (s : State) : (hostReleaseRst s).emitting = if s.rst then [] else s.emitting := by
  cases h : s.rst <;> simp [hostReleaseRst, h]
@[simp] theorem hostReleaseRst_cmdIn (s : State) : (hostReleaseRst s).cmdIn = s.cmdIn := by
  cases h : s.rst <;> simp [hostReleaseRst, h]
@[simp] theorem hostReleaseRst_rst (s : State) : (hostReleaseRst s).rst = false := by
  cases h : s.rst <;> simp [hostReleaseRst, h]
@[simp] theorem hostReleaseRst_taken (s : State) : (hostReleaseRst s).taken = s.taken := by
  cases h : s.rst <;> simp [hostReleaseRst, h]
@[simp] theorem hostReleaseRst_turns (s : State) : (hostReleaseRst s).turns = s.turns := by
  cases h : s.rst <;> simp [hostReleaseRst, h]
@[simp] theorem hostReleaseRst_rspDepth (s : State) : (hostReleaseRst s).rspDepth = s.rspDepth := by
  cases h : s.rst <;> simp [hostReleaseRst, h]

/-! ### hostDeliver -/

@[simp] theorem hostDeliver_words (v : PortWord) (s : State) : (hostDeliver v s).words = s.words := rfl
@[simp] theorem hostDeliver_cursor (v : PortWord) (s : State) : (hostDeliver v s).cursor = s.cursor := rfl
@[simp] theorem hostDeliver_total (v : PortWord) (s : State) : (hostDeliver v s).total = s.total := rfl
@[simp] theorem hostDeliver_illop (v : PortWord) (s : State) : (hostDeliver v s).illop = s.illop := rfl
@[simp] theorem hostDeliver_rsvd (v : PortWord) (s : State) : (hostDeliver v s).rsvd = s.rsvd := rfl
@[simp] theorem hostDeliver_wrap (v : PortWord) (s : State) : (hostDeliver v s).wrap = s.wrap := rfl
@[simp] theorem hostDeliver_phase (v : PortWord) (s : State) : (hostDeliver v s).phase = s.phase := rfl
@[simp] theorem hostDeliver_rspq (v : PortWord) (s : State) : (hostDeliver v s).rspq = s.rspq := rfl
@[simp] theorem hostDeliver_emitting (v : PortWord) (s : State) : (hostDeliver v s).emitting = s.emitting := rfl
@[simp] theorem hostDeliver_cmdIn (v : PortWord) (s : State) : (hostDeliver v s).cmdIn = s.cmdIn ++ [v] := rfl
@[simp] theorem hostDeliver_rst (v : PortWord) (s : State) : (hostDeliver v s).rst = s.rst := rfl
@[simp] theorem hostDeliver_taken (v : PortWord) (s : State) : (hostDeliver v s).taken = s.taken := rfl
@[simp] theorem hostDeliver_turns (v : PortWord) (s : State) : (hostDeliver v s).turns = s.turns := rfl
@[simp] theorem hostDeliver_rspDepth (v : PortWord) (s : State) : (hostDeliver v s).rspDepth = s.rspDepth := rfl

/-! ### drainEmits -/

@[simp] theorem drainEmits_words (s : State) : (drainEmits s).words = s.words := rfl
@[simp] theorem drainEmits_cursor (s : State) : (drainEmits s).cursor = s.cursor := rfl
@[simp] theorem drainEmits_total (s : State) : (drainEmits s).total = s.total := rfl
@[simp] theorem drainEmits_illop (s : State) : (drainEmits s).illop = s.illop := rfl
@[simp] theorem drainEmits_rsvd (s : State) : (drainEmits s).rsvd = s.rsvd := rfl
@[simp] theorem drainEmits_wrap (s : State) : (drainEmits s).wrap = s.wrap := rfl
@[simp] theorem drainEmits_phase (s : State) : (drainEmits s).phase = s.phase := rfl
@[simp] theorem drainEmits_rspq (s : State) : (drainEmits s).rspq = s.rspq ++ s.emitting.take (rspRoom s) := rfl
@[simp] theorem drainEmits_emitting (s : State) : (drainEmits s).emitting = s.emitting.drop (rspRoom s) := rfl
@[simp] theorem drainEmits_cmdIn (s : State) : (drainEmits s).cmdIn = s.cmdIn := rfl
@[simp] theorem drainEmits_rst (s : State) : (drainEmits s).rst = s.rst := rfl
@[simp] theorem drainEmits_taken (s : State) : (drainEmits s).taken = s.taken := rfl
@[simp] theorem drainEmits_turns (s : State) : (drainEmits s).turns = s.turns := rfl
@[simp] theorem drainEmits_rspDepth (s : State) : (drainEmits s).rspDepth = s.rspDepth := rfl

/-! ### emitAll -/

@[simp] theorem emitAll_words (vs : List PortWord) (s : State) : (emitAll vs s).words = s.words := rfl
@[simp] theorem emitAll_cursor (vs : List PortWord) (s : State) : (emitAll vs s).cursor = s.cursor := rfl
@[simp] theorem emitAll_total (vs : List PortWord) (s : State) : (emitAll vs s).total = s.total := rfl
@[simp] theorem emitAll_illop (vs : List PortWord) (s : State) : (emitAll vs s).illop = s.illop := rfl
@[simp] theorem emitAll_rsvd (vs : List PortWord) (s : State) : (emitAll vs s).rsvd = s.rsvd := rfl
@[simp] theorem emitAll_wrap (vs : List PortWord) (s : State) : (emitAll vs s).wrap = s.wrap := rfl
@[simp] theorem emitAll_phase (vs : List PortWord) (s : State) : (emitAll vs s).phase = s.phase := rfl
@[simp] theorem emitAll_rspq (vs : List PortWord) (s : State) : (emitAll vs s).rspq = s.rspq ++ (s.emitting ++ vs).take (rspRoom s) := rfl
@[simp] theorem emitAll_emitting (vs : List PortWord) (s : State) : (emitAll vs s).emitting = (s.emitting ++ vs).drop (rspRoom s) := rfl
@[simp] theorem emitAll_cmdIn (vs : List PortWord) (s : State) : (emitAll vs s).cmdIn = s.cmdIn := rfl
@[simp] theorem emitAll_rst (vs : List PortWord) (s : State) : (emitAll vs s).rst = s.rst := rfl
@[simp] theorem emitAll_taken (vs : List PortWord) (s : State) : (emitAll vs s).taken = s.taken := rfl
@[simp] theorem emitAll_turns (vs : List PortWord) (s : State) : (emitAll vs s).turns = s.turns := rfl
@[simp] theorem emitAll_rspDepth (vs : List PortWord) (s : State) : (emitAll vs s).rspDepth = s.rspDepth := rfl

/-! ### raiseIllop -/

@[simp] theorem raiseIllop_words (s : State) : (raiseError .illop s).words = s.words := rfl
@[simp] theorem raiseIllop_cursor (s : State) : (raiseError .illop s).cursor = s.cursor := rfl
@[simp] theorem raiseIllop_total (s : State) : (raiseError .illop s).total = s.total := rfl
@[simp] theorem raiseIllop_illop (s : State) : (raiseError .illop s).illop = true := rfl
@[simp] theorem raiseIllop_rsvd (s : State) : (raiseError .illop s).rsvd = s.rsvd := rfl
@[simp] theorem raiseIllop_wrap (s : State) : (raiseError .illop s).wrap = s.wrap := rfl
@[simp] theorem raiseIllop_phase (s : State) : (raiseError .illop s).phase = s.phase := rfl
@[simp] theorem raiseIllop_rspq (s : State) : (raiseError .illop s).rspq = s.rspq := rfl
@[simp] theorem raiseIllop_emitting (s : State) : (raiseError .illop s).emitting = s.emitting := rfl
@[simp] theorem raiseIllop_cmdIn (s : State) : (raiseError .illop s).cmdIn = s.cmdIn := rfl
@[simp] theorem raiseIllop_rst (s : State) : (raiseError .illop s).rst = s.rst := rfl
@[simp] theorem raiseIllop_taken (s : State) : (raiseError .illop s).taken = s.taken := rfl
@[simp] theorem raiseIllop_turns (s : State) : (raiseError .illop s).turns = s.turns := rfl
@[simp] theorem raiseIllop_rspDepth (s : State) : (raiseError .illop s).rspDepth = s.rspDepth := rfl

/-! ### raiseRsvd -/

@[simp] theorem raiseRsvd_words (s : State) : (raiseError .rsvd s).words = s.words := rfl
@[simp] theorem raiseRsvd_cursor (s : State) : (raiseError .rsvd s).cursor = s.cursor := rfl
@[simp] theorem raiseRsvd_total (s : State) : (raiseError .rsvd s).total = s.total := rfl
@[simp] theorem raiseRsvd_illop (s : State) : (raiseError .rsvd s).illop = s.illop := rfl
@[simp] theorem raiseRsvd_rsvd (s : State) : (raiseError .rsvd s).rsvd = true := rfl
@[simp] theorem raiseRsvd_wrap (s : State) : (raiseError .rsvd s).wrap = s.wrap := rfl
@[simp] theorem raiseRsvd_phase (s : State) : (raiseError .rsvd s).phase = s.phase := rfl
@[simp] theorem raiseRsvd_rspq (s : State) : (raiseError .rsvd s).rspq = s.rspq := rfl
@[simp] theorem raiseRsvd_emitting (s : State) : (raiseError .rsvd s).emitting = s.emitting := rfl
@[simp] theorem raiseRsvd_cmdIn (s : State) : (raiseError .rsvd s).cmdIn = s.cmdIn := rfl
@[simp] theorem raiseRsvd_rst (s : State) : (raiseError .rsvd s).rst = s.rst := rfl
@[simp] theorem raiseRsvd_taken (s : State) : (raiseError .rsvd s).taken = s.taken := rfl
@[simp] theorem raiseRsvd_turns (s : State) : (raiseError .rsvd s).turns = s.turns := rfl
@[simp] theorem raiseRsvd_rspDepth (s : State) : (raiseError .rsvd s).rspDepth = s.rspDepth := rfl

/-! ### raiseWrap -/

@[simp] theorem raiseWrap_words (s : State) : (raiseError .wrap s).words = s.words := rfl
@[simp] theorem raiseWrap_cursor (s : State) : (raiseError .wrap s).cursor = s.cursor := rfl
@[simp] theorem raiseWrap_total (s : State) : (raiseError .wrap s).total = s.total := rfl
@[simp] theorem raiseWrap_illop (s : State) : (raiseError .wrap s).illop = s.illop := rfl
@[simp] theorem raiseWrap_rsvd (s : State) : (raiseError .wrap s).rsvd = s.rsvd := rfl
@[simp] theorem raiseWrap_wrap (s : State) : (raiseError .wrap s).wrap = true := rfl
@[simp] theorem raiseWrap_phase (s : State) : (raiseError .wrap s).phase = s.phase := rfl
@[simp] theorem raiseWrap_rspq (s : State) : (raiseError .wrap s).rspq = s.rspq := rfl
@[simp] theorem raiseWrap_emitting (s : State) : (raiseError .wrap s).emitting = s.emitting := rfl
@[simp] theorem raiseWrap_cmdIn (s : State) : (raiseError .wrap s).cmdIn = s.cmdIn := rfl
@[simp] theorem raiseWrap_rst (s : State) : (raiseError .wrap s).rst = s.rst := rfl
@[simp] theorem raiseWrap_taken (s : State) : (raiseError .wrap s).taken = s.taken := rfl
@[simp] theorem raiseWrap_turns (s : State) : (raiseError .wrap s).turns = s.turns := rfl
@[simp] theorem raiseWrap_rspDepth (s : State) : (raiseError .wrap s).rspDepth = s.rspDepth := rfl

/-! ### countBytes -/

@[simp] theorem countBytes_words (n : Nat) (s : State) : (countBytes n s).words = s.words := by
  unfold countBytes
  by_cases h : countWraps s.total n = true <;> simp [h]
@[simp] theorem countBytes_cursor (n : Nat) (s : State) : (countBytes n s).cursor = s.cursor := by
  unfold countBytes
  by_cases h : countWraps s.total n = true <;> simp [h]
@[simp] theorem countBytes_total (n : Nat) (s : State) : (countBytes n s).total = s.total + BitVec.ofNat 64 n := rfl
@[simp] theorem countBytes_illop (n : Nat) (s : State) : (countBytes n s).illop = s.illop := by
  unfold countBytes
  by_cases h : countWraps s.total n = true <;> simp [h]
@[simp] theorem countBytes_rsvd (n : Nat) (s : State) : (countBytes n s).rsvd = s.rsvd := by
  unfold countBytes
  by_cases h : countWraps s.total n = true <;> simp [h]
@[simp] theorem countBytes_wrap (n : Nat) (s : State) : (countBytes n s).wrap = (s.wrap || countWraps s.total n) := by
  unfold countBytes
  by_cases h : countWraps s.total n = true <;> simp [h]
@[simp] theorem countBytes_phase (n : Nat) (s : State) : (countBytes n s).phase = s.phase := by
  unfold countBytes
  by_cases h : countWraps s.total n = true <;> simp [h]
@[simp] theorem countBytes_rspq (n : Nat) (s : State) : (countBytes n s).rspq = s.rspq := by
  unfold countBytes
  by_cases h : countWraps s.total n = true <;> simp [h]
@[simp] theorem countBytes_emitting (n : Nat) (s : State) : (countBytes n s).emitting = s.emitting := by
  unfold countBytes
  by_cases h : countWraps s.total n = true <;> simp [h]
@[simp] theorem countBytes_cmdIn (n : Nat) (s : State) : (countBytes n s).cmdIn = s.cmdIn := by
  unfold countBytes
  by_cases h : countWraps s.total n = true <;> simp [h]
@[simp] theorem countBytes_rst (n : Nat) (s : State) : (countBytes n s).rst = s.rst := by
  unfold countBytes
  by_cases h : countWraps s.total n = true <;> simp [h]
@[simp] theorem countBytes_taken (n : Nat) (s : State) : (countBytes n s).taken = s.taken := by
  unfold countBytes
  by_cases h : countWraps s.total n = true <;> simp [h]
@[simp] theorem countBytes_turns (n : Nat) (s : State) : (countBytes n s).turns = s.turns := by
  unfold countBytes
  by_cases h : countWraps s.total n = true <;> simp [h]
@[simp] theorem countBytes_rspDepth (n : Nat) (s : State) : (countBytes n s).rspDepth = s.rspDepth := by
  unfold countBytes
  by_cases h : countWraps s.total n = true <;> simp [h]

/-! ### addBytes -/

@[simp] theorem addBytes_words (d : List Byte) (s : State) : (addBytes d s).words = addWords d s.cursor s.words := by
  simp [addBytes]
@[simp] theorem addBytes_cursor (d : List Byte) (s : State) : (addBytes d s).cursor = advanceCursor s.cursor d.length := by
  simp [addBytes]
@[simp] theorem addBytes_total (d : List Byte) (s : State) : (addBytes d s).total = s.total + BitVec.ofNat 64 d.length := by
  simp [addBytes]
@[simp] theorem addBytes_illop (d : List Byte) (s : State) : (addBytes d s).illop = s.illop := by
  simp [addBytes]
@[simp] theorem addBytes_rsvd (d : List Byte) (s : State) : (addBytes d s).rsvd = s.rsvd := by
  simp [addBytes]
@[simp] theorem addBytes_wrap (d : List Byte) (s : State) : (addBytes d s).wrap = (s.wrap || countWraps s.total d.length) := by
  simp [addBytes]
@[simp] theorem addBytes_phase (d : List Byte) (s : State) : (addBytes d s).phase = s.phase := by
  simp [addBytes]
@[simp] theorem addBytes_rspq (d : List Byte) (s : State) : (addBytes d s).rspq = s.rspq := by
  simp [addBytes]
@[simp] theorem addBytes_emitting (d : List Byte) (s : State) : (addBytes d s).emitting = s.emitting := by
  simp [addBytes]
@[simp] theorem addBytes_cmdIn (d : List Byte) (s : State) : (addBytes d s).cmdIn = s.cmdIn := by
  simp [addBytes]
@[simp] theorem addBytes_rst (d : List Byte) (s : State) : (addBytes d s).rst = s.rst := by
  simp [addBytes]
@[simp] theorem addBytes_taken (d : List Byte) (s : State) : (addBytes d s).taken = s.taken := by
  simp [addBytes]
@[simp] theorem addBytes_turns (d : List Byte) (s : State) : (addBytes d s).turns = s.turns := by
  simp [addBytes]
@[simp] theorem addBytes_rspDepth (d : List Byte) (s : State) : (addBytes d s).rspDepth = s.rspDepth := by
  simp [addBytes]

/-! ### placeNextWord -/

@[simp] theorem placeNextWord_words (v : PortWord) (s : State) : (placeNextWord v s).words = s.words := rfl
@[simp] theorem placeNextWord_cursor (v : PortWord) (s : State) : (placeNextWord v s).cursor = s.cursor := rfl
@[simp] theorem placeNextWord_total (v : PortWord) (s : State) : (placeNextWord v s).total = s.total := rfl
@[simp] theorem placeNextWord_illop (v : PortWord) (s : State) : (placeNextWord v s).illop = s.illop := rfl
@[simp] theorem placeNextWord_rsvd (v : PortWord) (s : State) : (placeNextWord v s).rsvd = s.rsvd := rfl
@[simp] theorem placeNextWord_wrap (v : PortWord) (s : State) : (placeNextWord v s).wrap = s.wrap := rfl
@[simp] theorem placeNextWord_phase (v : PortWord) (s : State) : (placeNextWord v s).phase = .idle := rfl
@[simp] theorem placeNextWord_rspq (v : PortWord) (s : State) : (placeNextWord v s).rspq = s.rspq := rfl
@[simp] theorem placeNextWord_emitting (v : PortWord) (s : State) : (placeNextWord v s).emitting = [] := rfl
@[simp] theorem placeNextWord_cmdIn (v : PortWord) (s : State) : (placeNextWord v s).cmdIn = v :: s.cmdIn := rfl
@[simp] theorem placeNextWord_rst (v : PortWord) (s : State) : (placeNextWord v s).rst = false := rfl
@[simp] theorem placeNextWord_taken (v : PortWord) (s : State) : (placeNextWord v s).taken = s.taken := rfl
@[simp] theorem placeNextWord_turns (v : PortWord) (s : State) : (placeNextWord v s).turns = .engine :: s.turns := rfl
@[simp] theorem placeNextWord_rspDepth (v : PortWord) (s : State) : (placeNextWord v s).rspDepth = s.rspDepth := rfl

end Sys2Proof.Machine
end

