-- ==== Sys2Proof/Laws/Ops.lean ====
section
/-!
SUPPORT. What each shared operation can do, said once: emission, the accumulator's placement, the decoder's cases, the
commands' next states, and the step.
-/
namespace Sys2Proof.Machine

/-! ### Emission -/

/-- Emitting moves words from one list to the other: nothing is dropped or reordered. -/
theorem drainEmits_keeps_stream (s : State) :
    (drainEmits s).rspq ++ (drainEmits s).emitting = s.rspq ++ s.emitting := by
  simp [List.append_assoc]

/-- With room for all words, the command's emission is complete. -/
theorem drainEmits_of_room {s : State} (h : s.rspq.length + s.emitting.length ≤ s.rspDepth) :
    drainEmits s = { s with rspq := s.rspq ++ s.emitting, emitting := [] } := by
  have hr : s.emitting.length ≤ rspRoom s := by unfold rspRoom; omega
  simp [drainEmits, List.take_of_length_le hr, List.drop_of_length_le hr]

/-- With no room, the engine waits with nothing changed. -/
theorem drainEmits_of_full {s : State} (h : s.rspDepth ≤ s.rspq.length) : drainEmits s = s := by
  have hr : rspRoom s = 0 := by unfold rspRoom; omega
  simp [drainEmits, hr]

/-- With room for all of its words, a command's responses are in RSPQ when it ends. -/
theorem emitAll_of_room {s : State} {vs : List PortWord} (he : s.emitting = [])
    (h : s.rspq.length + vs.length ≤ s.rspDepth) :
    emitAll vs s = { s with rspq := s.rspq ++ vs, emitting := [] } := by
  unfold emitAll
  rw [drainEmits_of_room (by simpa [he] using h)]
  simp [he]

/-- A command's words join the response stream at its end. -/
theorem emitAll_responses (vs : List PortWord) (s : State) :
    responses (emitAll vs s) = responses s ++ vs := by
  simp [responses, List.append_assoc]

theorem drainEmits_rspq_le {s : State} (h : s.rspq.length ≤ s.rspDepth) :
    (drainEmits s).rspq.length ≤ s.rspDepth := by
  simp [rspRoom]; omega

/-! ### The host's acts -/

@[simp] theorem hostTake_empty {s : State} (h : s.rspq = []) : hostTake s = s := by simp [hostTake, h]

@[simp] theorem hostTake_cons {s : State} {v : PortWord} {rest : List PortWord} (h : s.rspq = v :: rest) :
    hostTake s = { s with rspq := rest, taken := s.taken ++ [v] } := by simp [hostTake, h]

/-! ### The accumulator -/

@[simp] theorem xorWord_zero (v : AccWord) (W : Words) : xorWord 0 v W = { W with w0 := W.w0 ^^^ v } := rfl
@[simp] theorem xorWord_one (v : AccWord) (W : Words) : xorWord 1 v W = { W with w1 := W.w1 ^^^ v } := rfl
@[simp] theorem xorWord_two (v : AccWord) (W : Words) : xorWord 2 v W = { W with w2 := W.w2 ^^^ v } := rfl

@[simp] theorem cellSize_zero : cellSize 0 = 64 := by decide
@[simp] theorem cellSize_one : cellSize 1 = 64 := by decide
@[simp] theorem cellSize_two : cellSize 2 = 32 := by decide
@[simp] theorem nextWord_zero : nextWord 0 = 1 := by decide
@[simp] theorem nextWord_one : nextWord 1 = 2 := by decide
@[simp] theorem nextWord_two : nextWord 2 = 0 := by decide

/-- A bit of the logical vector lies in word p / 64 at place p mod 64 (10_state.md R21). -/
theorem logical_bit (W : Words) (p : Nat) (h : p < 160) :
    (logical W).getLsbD p =
      if p < 64 then W.w0.getLsbD p else if p < 128 then W.w1.getLsbD (p - 64) else W.w2.getLsbD (p - 128) := by
  simp only [logical, BitVec.getLsbD_append]
  by_cases h0 : p < 64
  · simp [h0]
  · by_cases h1 : p < 128
    · have : p - 64 < 64 := by omega
      simp [h0, h1, this]
    · have h2 : ¬ p - 64 < 64 := by omega
      have h3 : p - 64 - 64 = p - 128 := by omega
      simp [h0, h1, h2, h3, BitVec.getLsbD_setWidth]; omega

/-- The loop after one more iteration. -/
theorem placeLoop_succ (d : List Byte) (c : BitVec 8) (W : Words) (k : Nat) :
    placeLoop d c W (k + 1) = placeIter d (placeLoop d c W k) k := by
  simp [placeLoop, List.range_succ]

@[simp] theorem placeLoop_zero (d : List Byte) (c : BitVec 8) (W : Words) :
    placeLoop d c W 0 = startPlacer c W := rfl

/-! ### Decoding -/

/-- What the decoder can answer, by the opcode field (30_encoding.md R82). -/
theorem decode_cases (c : PortWord) :
    ((opField c).toNat = 1 ∧ decode c = noOperand (argField c) .reset) ∨
    ((opField c).toNat = 2 ∧ decode c = .ok (.add (argField c).toNat)) ∨
    ((opField c).toNat = 3 ∧ decode c = noOperand (argField c) .digest) ∨
    ((opField c).toNat = 4 ∧ decode c = noOperand (argField c) .b64digest) ∨
    ((opField c).toNat = 5 ∧ decode c = noOperand (argField c) .rdstat) ∨
    ((opField c).toNat = 6 ∧ decode c = noOperand (argField c) .rdcfg) ∨
    (((opField c).toNat = 0 ∨ 7 ≤ (opField c).toNat) ∧ decode c = .error .illop) := by
  unfold decode
  split <;> simp_all
  omega

/-! ### The commands -/

/-- Every command's next state, in one place. -/
theorem exec_eq (i : Instr) (s : State) :
    exec i s = .next (match i with
      | .reset => clearHash s
      | .add n => if n = 0 then addBytes [] s else { s with phase := .payload n [] }
      | .digest => emitAll (packWords (digestBytes s)) s
      | .b64digest => emitAll (packWords (base64 (digestBytes s))) s
      | .rdstat => emitAll [statusWord s, s.total.extractLsb' 0 32, s.total.extractLsb' 32 32] s
      | .rdcfg => emitAll [configWord] s) := by
  cases i <;> simp [exec, execReset, execAdd, execDigest, execB64digest, execRdstat, execRdcfg]
  split <;> rfl

/-- What one payload word can do (30_encoding.md R86). -/
theorem takePayload_cases (n : Nat) (buf : List Byte) (v : PortWord) (s : State) :
    ((appendPayload n buf v).length = n ∧
      takePayload n buf v s = { addBytes (appendPayload n buf v) s with phase := .idle }) ∨
    ((appendPayload n buf v).length ≠ n ∧
      takePayload n buf v s = { s with phase := .payload n (appendPayload n buf v) }) := by
  unfold takePayload
  by_cases h : (appendPayload n buf v).length = n <;> simp [h]

/-! ### The step -/

/-- With no turn left, using up a turn changes nothing. -/
theorem withTurnsTail_of_nil {s : State} (h : s.turns = []) : { s with turns := s.turns.tail } = s := by
  ext1 <;> simp [h]

/-- The engine's turn is the engine's move. -/
theorem step_engine {s : State} (h : engineTurn s = true) :
    step s = engineMove { s with turns := s.turns.tail } := by
  cases ht : s.turns with
  | nil =>
    have hs := withTurnsTail_of_nil ht
    simp only [ht] at hs
    simp only [step, moveOnce, ht, hs]
  | cons x rest => cases x <;> simp_all [step, moveOnce, engineTurn]

/-- What a step can do: an act of the host, or the engine's move. -/
theorem step_cases {s t : State} (h : step s = .next t) :
    (∃ v rest, s.turns = .deliver v :: rest ∧ t = hostDeliver v { s with turns := rest }) ∨
    (∃ rest, s.turns = .take :: rest ∧ t = hostTake { s with turns := rest }) ∨
    (∃ rest, s.turns = .assertRst :: rest ∧ t = hostAssertRst { s with turns := rest }) ∨
    (∃ rest, s.turns = .releaseRst :: rest ∧ t = hostReleaseRst { s with turns := rest }) ∨
    (engineTurn s = true ∧ engineMove { s with turns := s.turns.tail } = .next t) := by
  by_cases he : engineTurn s = true
  · exact .inr (.inr (.inr (.inr ⟨he, step_engine he ▸ h⟩)))
  · cases ht : s.turns with
    | nil => simp [engineTurn, ht] at he
    | cons x rest => cases x <;> simp_all [step, moveOnce, engineTurn]

/-- What the engine's move can do: stay in reset, go on emitting, wait for a word, or take one. -/
theorem engineMove_cases {s t : State} (h : engineMove s = .next t) :
    (s.rst = true ∧ t = s) ∨
    (s.rst = false ∧ s.emitting ≠ [] ∧ t = drainEmits s) ∨
    (s.rst = false ∧ s.emitting = [] ∧ s.cmdIn = [] ∧ t = s) ∨
    (∃ v rest, s.rst = false ∧ s.emitting = [] ∧ s.cmdIn = v :: rest ∧
      takeWord v { s with cmdIn := rest } = .next t) := by
  unfold engineMove at h
  by_cases hr : s.rst = true
  · simp_all
  · by_cases he : s.emitting = []
    · cases hc : s.cmdIn <;> simp_all
    · simp_all

/-- What taking a word can do: execute a command, record an illegal word, or take payload. -/
theorem takeWord_cases {v : PortWord} {s t : State} (h : takeWord v s = .next t) :
    (∃ i, s.phase = .idle ∧ decode v = .ok i ∧ exec i s = .next t) ∨
    (∃ e, s.phase = .idle ∧ decode v = .error e ∧ t = raiseError (illegalCause e) s) ∨
    (∃ n buf, s.phase = .payload n buf ∧ t = takePayload n buf v s) := by
  unfold takeWord takeCommand at h
  cases hp : s.phase with
  | idle =>
    cases hd : decode v <;> simp_all
  | payload n buf => simp_all

/-- The engine takes a word: what follows is what that word does. -/
theorem step_takes_word {s : State} {v : PortWord} {rest : List PortWord} (h : TakesWord s)
    (hc : s.cmdIn = v :: rest) : step s = takeWord v (afterTake s rest) := by
  obtain ⟨ht, hr, he⟩ := h
  rw [step_engine ht]
  simp [engineMove, hr, he, hc, afterTake]

/-- A command word placed with `withFetchWord` is the one the very next step decodes and executes. -/
theorem step_withFetchWord {s : State} {nbits w : Nat} {i : Instr} (h : decode (tableWord nbits w) = .ok i) :
    step (s.withFetchWord nbits w) = exec i { s with phase := .idle, emitting := [], rst := false } := by
  simp [State.withFetchWord, placeNextWord, step, moveOnce, engineMove, takeWord, takeCommand, h]

end Sys2Proof.Machine
end

