-- ==== Sys2Proof/Laws/PerInstr.lean ====
section
/-!
SUPPORT. Facts about every command as syntax, one lemma per constructor.
-/
namespace Sys2Proof.Laws

/-- The opcode of 30_encoding.md R81. -/
def EncodedOpcode.opcode : Instr → Nat
  | .reset => 1
  | .add _ => 2
  | .digest => 3
  | .b64digest => 4
  | .rdstat => 5
  | .rdcfg => 6

/-- The command word of a command carries that command's opcode in bits [31:28] (30_encoding.md R80, R81). -/
def EncodedOpcode.Statement (i : Instr) : Prop := (opField (encode i)).toNat = EncodedOpcode.opcode i

theorem EncodedOpcode.reset : EncodedOpcode.Statement .reset := by unfold EncodedOpcode.Statement; decide

theorem EncodedOpcode.add (n : Nat) : EncodedOpcode.Statement (.add n) := by
  unfold EncodedOpcode.Statement
  have h : opField (commandWord 0x2 (BitVec.ofNat 28 n)) = 0x2 := by
    apply BitVec.eq_of_getLsbD_eq
    intro i hi
    simp only [opField, commandWord, BitVec.getLsbD_extractLsb', BitVec.getLsbD_append]
    simp [hi]
  show (opField (commandWord 0x2 (BitVec.ofNat 28 n))).toNat = 2
  rw [h]
  rfl

theorem EncodedOpcode.digest : EncodedOpcode.Statement .digest := by unfold EncodedOpcode.Statement; decide
theorem EncodedOpcode.b64digest : EncodedOpcode.Statement .b64digest := by unfold EncodedOpcode.Statement; decide
theorem EncodedOpcode.rdstat : EncodedOpcode.Statement .rdstat := by unfold EncodedOpcode.Statement; decide
theorem EncodedOpcode.rdcfg : EncodedOpcode.Statement .rdcfg := by unfold EncodedOpcode.Statement; decide

end Sys2Proof.Laws
end

