-- ==== Sys2Proof/Tests/Slice0.lean ====
section
/-!
SUPPORT. The model's own tests: words written out from spec/30_encoding.md, one step or one operation on a small state with the
expected values of spec/95_test_vectors.md, and one witness for the hypotheses of each statement that has some.
-/
namespace Sys2Proof.Tests
open Sys2Proof.Machine

/-- The reset state of a machine whose RSP_DEPTH is 8. -/
def quiet : State := { State.reset with rspDepth := 8 }

/-- The next state of an outcome, for reading its fields. -/
def after (o : Host.Outcome State Fault Refusal) : State :=
  match o with
  | .next s => s
  | _ => quiet

/-! ## Well-formedness, encoding, decoding -/

theorem test_wf_refuses_a_29_bit_length : (Instr.add 268435456).wf = false := by decide
theorem test_wf_accepts_the_longest_add : (Instr.add 268435455).WellFormed := by decide

-- The patterns of 30_encoding.md R81, bit 31 first.
theorem test_decode_reset : decode 0b00010000000000000000000000000000 = .ok .reset := by decide
theorem test_decode_add : decode 0b00100000000000000000000000001100 = .ok (.add 12) := by decide
theorem test_decode_add_longest : decode 0b00101111111111111111111111111111 = .ok (.add 268435455) := by decide
theorem test_decode_digest : decode 0b00110000000000000000000000000000 = .ok .digest := by decide
theorem test_decode_b64digest : decode 0b01000000000000000000000000000000 = .ok .b64digest := by decide
theorem test_decode_rdstat : decode 0b01010000000000000000000000000000 = .ok .rdstat := by decide
theorem test_decode_rdcfg : decode 0b01100000000000000000000000000000 = .ok .rdcfg := by decide
-- V-E1 to V-E5 of 95_test_vectors.md.
theorem test_decode_zero_is_illop : decode 0x00000000 = .error .illop := by decide
theorem test_decode_illop_before_rsvd : decode 0x7FFFFFFF = .error .illop := by decide
theorem test_decode_top_opcode_is_illop : decode 0xF0000000 = .error .illop := by decide
theorem test_decode_reset_with_argument : decode 0x10000001 = .error .rsvd := by decide
theorem test_decode_digest_with_argument : decode 0x3000FFFF = .error .rsvd := by decide
-- 30_encoding.md R92.
theorem test_assemble_add_abc : assembleAdd (asciiBytes ['a', 'b', 'c']) = [0x20000003, 0x00636261] := by decide
theorem test_table_word : decodeTableWord 32 0x2000000C = some (.add 12) := by decide

/-! ## The commands -/

-- V-R1.
theorem test_reset_keeps_flags :
    exec .reset { quiet with words := ⟨1, 2, 0x0000007F00000003⟩, cursor := 57, total := 99, illop := true, wrap := true } =
      .next { quiet with illop := true, wrap := true } := rfl
-- V-A12: 0x61 at 150, 0x62 at 1, 0x63 at 12.
theorem test_add_across_the_wrap :
    (addBytes [0x61, 0x62, 0x63] { quiet with cursor := 150 }).words = ⟨0x00000000000630C4, 0, 0x0000000018400000⟩ ∧
    (addBytes [0x61, 0x62, 0x63] { quiet with cursor := 150 }).cursor = 23 := by decide
-- V-A8: the count wraps, the words are unaffected.
theorem test_add_count_wraps :
    let t := addBytes [0x01, 0x02, 0x03] { quiet with total := 0xFFFFFFFFFFFFFFFE }
    t.words = ⟨0x0000000000C01001, 0, 0⟩ ∧ t.cursor = 33 ∧ t.total = 1 ∧ t.wrap = true := by decide
-- V-A2e and V-A2n: the spills at 57 and 159.
theorem test_place_spills :
    place Words.zero 57 0xFF = ⟨0xFE00000000000000, 0x0000000000000001, 0⟩ ∧
    place Words.zero 159 0xFF = ⟨0x000000000000007F, 0, 0x0000007F80000000⟩ := by decide
-- V-A5: byte 160 folds onto byte 0.
theorem test_fold_byte_160 : foldByte (List.replicate 160 0 ++ [0x01]) 0 = 0x01 := by decide
-- R108, V-A5b: n = 161 from cursor 100.
theorem test_cursor_formula : advanceCursor 100 161 = 111 := by decide
-- V-D2.
theorem test_digest_words :
    (after (exec .digest { quiet with
      words := ⟨0x1122334455667788, 0x99AABBCCDDEEFF00, 0x0000007FCAFEBABE⟩, total := 0x0123456789ABCDEF })).rspq =
      [0x55667788, 0x11223344, 0xDDEEFF00, 0x10017623, 0xCBDDFFD9] := by decide
-- V-B6.
theorem test_b64digest_words :
    (after (exec .b64digest { quiet with
      words := ⟨0x1122334455667788, 0x99AABBCCDDEEFF00, 0x0000007FCAFEBABE⟩, total := 0x0123456789ABCDEF })).rspq =
      [0x6D644869, 0x7A515556, 0x41456849, 0x64372B2F, 0x42593349, 0x2F6E4E45, 0x3D736333] := by decide
-- V-T2.
theorem test_rdstat_words :
    (after (exec .rdstat { quiet with
      cursor := 159, total := 0x0123456789ABCDEF, illop := true, rsvd := true, wrap := true })).rspq =
      [0x0000079F, 0x89ABCDEF, 0x01234567] := by decide
-- V-T3.
theorem test_rdcfg_word : (after (exec .rdcfg quiet)).rspq = [0x03140BA0] := by decide

/-! ## The ports -/

-- V-E9, its last payload word: the three 0xFF lanes are ignored.
theorem test_payload_padding_is_ignored :
    (after (step { quiet with phase := .payload 5 [0x61, 0x62, 0x63, 0x64], cmdIn := [0xFFFFFF65] })).words =
      ⟨0x000650C818C31061, 0, 0⟩ := by decide
-- P7: the word of DIGEST taken as payload.
theorem test_command_word_as_payload :
    (after (step { quiet with phase := .payload 4 [], cmdIn := [0x30000000] })).words = ⟨0x0000006000000000, 0, 0⟩ := by decide
-- RSP_DEPTH 2: two of RDSTAT's three words fit, the third waits.
theorem test_emit_waits_when_full :
    (after (exec .rdstat { quiet with rspDepth := 2, cursor := 33 })).rspq = [33, 0] ∧
    (after (exec .rdstat { quiet with rspDepth := 2, cursor := 33 })).emitting = [0] := by decide
-- R231: RST during a payload.
theorem test_rst_discards_the_add :
    (after (step { quiet with phase := .payload 9 [1, 2], rspq := [7], illop := true, turns := [.assertRst] })).phase = .idle := by
  decide
-- R215: a release of RST that was not asserted leaves an ADD in progress alone.
theorem test_release_without_assertion_keeps_state :
    step { quiet with phase := .payload 9 [1, 2], rspq := [7], illop := true, turns := [.releaseRst] } =
      .next { quiet with phase := .payload 9 [1, 2], rspq := [7], illop := true } := rfl
theorem test_fetch_word_runs : step (quiet.withFetchWord 32 0x60000000) = exec .rdcfg quiet := rfl

/-! ## Witnesses: a state and operands that meet all hypotheses of a statement -/

/-- The engine at a command boundary with one word delivered. -/
def given (v : PortWord) : State := { quiet with cmdIn := [v] }

/-- The engine in an ADD's payload with one word delivered. -/
def inPayload (n : Nat) (buf : List Byte) : State := { quiet with phase := .payload n buf, cmdIn := [0x30000000] }

/-- The engine with a command that waits for room. -/
def waiting (depth : Nat) : State := { quiet with rspDepth := depth, rspq := [1, 2], emitting := [3, 4] }

theorem witness_DecodeOfEncodeIsTheCommand : (Instr.add 268435455).WellFormed ∧ (Instr.add 0).WellFormed := by decide
theorem witness_LegalWordIsTheWordOfItsCommand : decode 0x2FFFFFFF = .ok (.add 268435455) := by decide
theorem witness_StepRunsTheDecodedCommand :
    TakesWord (given 0x30000000) ∧ (given 0x30000000).phase = .idle ∧ (given 0x30000000).cmdIn = 0x30000000 :: [] ∧
    decode 0x30000000 = .ok .digest := by decide
theorem witness_IllegalOpcodeSetsIllopAlone :
    (TakesWord (given 0x0FFFFFFF) ∧ (given 0x0FFFFFFF).phase = .idle ∧ (given 0x0FFFFFFF).cmdIn = 0x0FFFFFFF :: [] ∧
      (0x0FFFFFFF : PortWord).toNat / 2 ^ 28 = 0) ∧
    (TakesWord (given 0x70000000) ∧ (given 0x70000000).phase = .idle ∧ (given 0x70000000).cmdIn = 0x70000000 :: [] ∧
      7 ≤ (0x70000000 : PortWord).toNat / 2 ^ 28) := by decide
theorem witness_ReservedArgumentSetsRsvdAlone :
    TakesWord (given 0x60000001) ∧ (given 0x60000001).phase = .idle ∧ (given 0x60000001).cmdIn = 0x60000001 :: [] ∧
    (0x60000001 : PortWord).toNat / 2 ^ 28 ∈ [1, 3, 4, 5, 6] ∧ (0x60000001 : PortWord).toNat % 2 ^ 28 ≠ 0 := by decide
theorem witness_EngineWaitsForAWord : TakesWord quiet ∧ quiet.cmdIn = [] := by decide
/-- The three boundaries of the first clause (no room, room for one, room for all), and the second clause. -/
theorem witness_WaitingEmitsFillTheRoom :
    engineTurn (waiting 2) = true ∧ (waiting 2).rst = false ∧ (waiting 2).emitting = [3, 4] ∧
    (waiting 2).rspq.length + 0 = (waiting 2).rspDepth ∧ (waiting 3).rspq.length + 1 = (waiting 3).rspDepth ∧
    (waiting 4).rspq.length + 2 = (waiting 4).rspDepth ∧
    (waiting 4).rspq.length + (waiting 4).emitting.length ≤ (waiting 4).rspDepth := by decide
theorem witness_WaitingCommandFinishesAsTheHostTakes :
    let s := { waiting 2 with turns := [.take, .engine, .take, .engine] }
    s.rst = false ∧ 1 ≤ s.rspDepth ∧ s.rspq.length = s.rspDepth ∧
    s.turns = (List.replicate s.emitting.length [Turn.take, Turn.engine]).flatten := by decide
/-- The first clause at n = |buf| + 5, the second at n = |buf| + 4 and at n = |buf| + 1. -/
theorem witness_PayloadWordExtendsOrCompletesTheAdd :
    (TakesWord (inPayload 6 [9]) ∧ (inPayload 6 [9]).phase = .payload 6 [9] ∧ [(9 : Byte)].length + 4 < 6) ∧
    (TakesWord (inPayload 5 [9]) ∧ (inPayload 5 [9]).phase = .payload 5 [9] ∧ 5 ≤ [(9 : Byte)].length + 4) ∧
    (TakesWord (inPayload 2 [9]) ∧ (inPayload 2 [9]).phase = .payload 2 [9] ∧ [(9 : Byte)].length < 2 ∧
      (inPayload 2 [9]).cmdIn = 0x30000000 :: []) := by decide
/-- Five bytes with 0xFF padding; and the empty ADD. -/
theorem witness_AddCommandRunsWithItsPayload :
    (let s := { quiet with cmdIn := [0x20000005, 0x64636261, 0xFFFFFF65, 0x50000000] }
     s.turns = [] ∧ s.rst = false ∧ s.emitting = [] ∧ s.phase = .idle ∧
     [(0x64636261 : PortWord), 0xFFFFFF65].length = (5 + 3) / 4 ∧
     ([(0x64636261 : PortWord), 0xFFFFFF65].flatMap lanes).take 5 = [0x61, 0x62, 0x63, 0x64, 0x65] ∧
     s.cmdIn = encode (.add 5) :: ([0x64636261, 0xFFFFFF65] ++ [0x50000000])) ∧
    (let s := { quiet with cmdIn := [0x20000000] }
     s.phase = .idle ∧ ([] : List PortWord).length = (0 + 3) / 4 ∧ s.cmdIn = encode (.add 0) :: ([] ++ [])) := by decide
theorem witness_AddOpensItsPayload : (0 : Nat) < 1 := by decide
/-- A cursor at the top of its range, for every statement about ADD that asks for a cursor below 160. -/
theorem witness_EmptyAddChangesNothing : ({ quiet with cursor := 159 } : State).cursor.toNat < 160 := by decide
theorem witness_PlaceXorsEachBitOfItsByte : (159 : Nat) < 160 ∧ (0 : Nat) < 160 := by decide
theorem witness_PlaceIsLinearAndCommutes : (153 : Nat) < 160 ∧ (159 : Nat) < 160 := by decide
/-- The spill clause at its first and at its last offset. -/
theorem witness_LoopPairIsThePosition :
    (153 : BitVec 8).toNat < 160 ∧
    cellSize (placeLoop [] 153 Words.zero 0).wi - 8 < (placeLoop [] 153 Words.zero 0).bo ∧
    cellSize (placeLoop [] 159 Words.zero 0).wi - 8 < (placeLoop [] 159 Words.zero 0).bo := by decide
theorem witness_AddXorsEveryByteAtItsPosition :
    ({ quiet with cursor := 159 } : State).cursor.toNat < 160 ∧ (159 : Nat) < 160 := by decide
theorem witness_AddEqualsByteSerialForm : ({ quiet with cursor := 159 } : State).cursor.toNat < 160 := by decide
theorem witness_AddIsChunkingInvariant : ({ quiet with cursor := 159 } : State).cursor.toNat < 160 := by decide
theorem witness_RepeatedWindowsCancel :
    (List.replicate 160 (0xFF : Byte)).length % 160 = 0 ∧ ({ quiet with cursor := 159 } : State).cursor.toNat < 160 :=
  ⟨by simp, by decide⟩
theorem witness_FullWindowCoversEveryPosition :
    (List.replicate 160 (0xFF : Byte)).length = 160 ∧ ({ quiet with cursor := 159 } : State).cursor.toNat < 160 ∧
    quiet.cursor = 0 ∧ (159 : Nat) < 160 := ⟨List.length_replicate, by decide, by decide, by decide⟩
theorem witness_DigestRespondsWithItsSlices :
    let s := { quiet with rspq := [1, 2, 3] }
    s.emitting = [] ∧ s.rspq.length + 5 ≤ s.rspDepth := by decide
theorem witness_EmptyDigestIsZero : EmptyHash quiet ∧ quiet.emitting = [] ∧ quiet.rspq.length + 5 ≤ quiet.rspDepth := by decide
theorem witness_DigestSeesTheCount : (1 : BitVec 64) ≠ quiet.total := by decide
theorem witness_B64DigestRespondsWithItsText :
    let s := { quiet with rspq := [1] }
    s.emitting = [] ∧ s.rspq.length + 7 ≤ s.rspDepth := by decide
theorem witness_RdstatRespondsWithStatusAndCount :
    let s := { quiet with rspq := [1, 2, 3, 4, 5] }
    s.emitting = [] ∧ s.rspq.length + 3 ≤ s.rspDepth := by decide
theorem witness_RdcfgRespondsWithTheConfiguration :
    let s := { quiet with rspDepth := 1 }
    s.emitting = [] ∧ s.rspq.length + 1 ≤ s.rspDepth := by decide
theorem witness_ReadersEmitTheSameWordsWhateverTheRoom :
    isReader .digest = true ∧ isReader .b64digest = true ∧ isReader .rdstat = true ∧ isReader .rdcfg = true := by decide
theorem witness_ReadersAreRepeatable :
    isReader .rdstat = true ∧ ∃ t u, exec .rdstat quiet = .next t ∧ exec .rdstat t = .next u := ⟨rfl, _, _, rfl, rfl⟩
theorem witness_AssertRstResetsTheEngine : ({ quiet with turns := [.assertRst] } : State).turns = .assertRst :: [] := rfl
theorem witness_RstHoldsTheEngineUntilReleased :
    engineTurn { quiet with rst := true } = true ∧ ({ quiet with rst := true } : State).rst = true ∧
    ({ quiet with rst := true, turns := [.releaseRst] } : State).turns = .releaseRst :: [] ∧
    ({ quiet with rst := true, turns := [.releaseRst] } : State).rst = true := by decide
theorem witness_ReleaseWithoutAssertionChangesNothing :
    ({ quiet with turns := [.releaseRst] } : State).turns = .releaseRst :: [] ∧
    ({ quiet with turns := [.releaseRst] } : State).rst = false := by decide
theorem witness_RstLeavesThePortsToTheHost :
    rstTurn { quiet with turns := [.assertRst] } = true ∧ rstTurn { quiet with rst := true, turns := [.releaseRst] } = true := by decide
theorem witness_HostTakesTheOldestResponse :
    (let s := { quiet with rspq := [1, 2], turns := [.take] }
     s.turns = .take :: [] ∧ s.rspq = 1 :: [2]) ∧
    (let s := { quiet with turns := [.take] }
     s.turns = .take :: [] ∧ s.rspq = []) := by decide
theorem witness_DeliveredWordsKeepTheirOrder :
    ({ quiet with turns := [.deliver 5] } : State).turns = .deliver 5 :: [] := rfl
theorem quiet_inv : Inv quiet := by constructor <;> decide
theorem witness_StepKeepsTheInvariant : Inv quiet ∧ ∃ t, step quiet = .next t := ⟨quiet_inv, _, rfl⟩
theorem witness_StepKeepsTheCursorOnTheCount :
    CursorTracksCount { given 0x20000000 with cursor := 33, total := 3 } ∧
    ∃ t, step { given 0x20000000 with cursor := 33, total := 3 } = .next t := ⟨by decide, _, rfl⟩
theorem witness_OnlyRstClearsAFlag :
    let s := { given 0x10000000 with illop := true, rsvd := true, wrap := true }
    (∃ t, step s = .next t) ∧ rstTurn s = false ∧ s.illop = true ∧ s.rsvd = true ∧ s.wrap = true :=
  ⟨⟨_, rfl⟩, by decide⟩
/-- Each clause with a step in which its flag rises. -/
theorem witness_FlagsRiseOnlyForTheirCause :
    (∃ t, step (given 0) = .next t ∧ (given 0).illop = false ∧ t.illop = true) ∧
    (∃ t, step (given 0x60000001) = .next t ∧ (given 0x60000001).rsvd = false ∧ t.rsvd = true) ∧
    (∃ t, step { inPayload 1 [] with total := 0xFFFFFFFFFFFFFFFF } = .next t ∧ (inPayload 1 []).wrap = false ∧
      t.wrap = true) :=
  ⟨⟨_, rfl, by decide⟩, ⟨_, rfl, by decide⟩, ⟨_, rfl, by decide⟩⟩
theorem witness_OnlyAddResetAndRstChangeTheHash :
    let s := inPayload 5 []
    s.cursor.toNat < 160 ∧ (∃ t, step s = .next t) ∧ rstTurn s = false ∧
    ¬ (s.phase = .idle ∧ s.cmdIn.head? = some 0x10000000) ∧ ¬ ∃ n buf, s.phase = .payload n buf ∧ n ≤ buf.length + 4 := by
  refine ⟨by decide, ⟨_, rfl⟩, by decide, by decide, ?_⟩
  rintro ⟨n, buf, h, hn⟩
  cases h
  simp at hn
theorem witness_CountOnlyIncreasesBetweenResets :
    let s := inPayload 4 []
    rstTurn s = false ∧ ¬ (s.phase = .idle ∧ s.cmdIn.head? = some 0x10000000) ∧
    ∃ t, step s = .next t ∧ t.wrap = false := ⟨by decide, by decide, _, rfl, by decide⟩
/-- A step that adds words to the response stream. -/
theorem witness_ResponseStreamOnlyGrows :
    rstTurn (given 0x30000000) = false ∧ ∃ t, step (given 0x30000000) = .next t ∧ responses t ≠ responses (given 0x30000000) :=
  ⟨by decide, _, rfl, by decide⟩
theorem witness_UnobservedBitsNeverReachAnOutput :
    SameButUnobserved (given 0x30000000) { given 0x30000000 with words := ⟨0, 0, 0x0000007F00000000⟩ } ∧
    ∃ t, step (given 0x30000000) = .next t := ⟨by decide, _, rfl⟩
theorem witness_FlagsAreSeenByRdstatAlone :
    (∃ t, step (given 0x30000000) = .next t) ∧
    ¬ ((given 0x30000000).phase = .idle ∧ (given 0x30000000).cmdIn.head? = some 0x50000000) := ⟨⟨_, rfl⟩, by decide⟩

end Sys2Proof.Tests
end

section
/-!
The statements of 20_memory.md: the words of DIGEST (R56), from the bytes of the digest and from its number, and what RST
holds and releases (R53).
-/
namespace Sys2Proof.Machine

/-! ### Bytes in port words -/

/-- Four consecutive bytes of a register make the slice they were cut from (20_memory.md R54, R55). -/
theorem packLanes_extractLsb' {n : Nat} (v : BitVec n) (k : Nat) :
    packLanes (v.extractLsb' k 8) (v.extractLsb' (k + 8) 8) (v.extractLsb' (k + 16) 8) (v.extractLsb' (k + 24) 8)
      = v.extractLsb' k 32 := by
  simp only [packLanes]
  rw [BitVec.extractLsb'_append_extractLsb'_eq_extractLsb' (by omega),
    BitVec.extractLsb'_append_extractLsb'_eq_extractLsb' (by omega),
    BitVec.extractLsb'_append_extractLsb'_eq_extractLsb' (by omega)]

/-- XOR acts on each lane of a port word. -/
theorem packLanes_xor (a0 a1 a2 a3 b0 b1 b2 b3 : Byte) :
    packLanes (a0 ^^^ b0) (a1 ^^^ b1) (a2 ^^^ b2) (a3 ^^^ b3) = packLanes a0 a1 a2 a3 ^^^ packLanes b0 b1 b2 b3 := by
  simp only [packLanes, ← BitVec.xor_append]

/-! ### The words of DIGEST -/

/-- The digest in the five words that 20_memory.md R56 writes out: W[0] and the low half of W[1] as they are, the rest
with the count XORed in. -/
def digestWords (s : State) : List PortWord :=
  [s.words.w0.setWidth 32, (s.words.w0 >>> 32).setWidth 32, s.words.w1.setWidth 32,
   (s.words.w1 >>> 32).setWidth 32 ^^^ s.total.setWidth 32,
   s.words.w2.setWidth 32 ^^^ (s.total >>> 32).setWidth 32]

/-- Both spellings of a half register, `setWidth` of a shift and `extractLsb'`, are one slice: proofs use the second. -/
theorem digestWords_eq_slices (s : State) :
    digestWords s =
      [s.words.w0.extractLsb' 0 32, s.words.w0.extractLsb' 32 32, s.words.w1.extractLsb' 0 32,
       s.words.w1.extractLsb' 32 32 ^^^ s.total.extractLsb' 0 32,
       s.words.w2.extractLsb' 0 32 ^^^ s.total.extractLsb' 32 32] := by
  have low (v : BitVec 64) : v.setWidth 32 = v.extractLsb' 0 32 := BitVec.setWidth_eq_extractLsb' (by decide)
  simp only [digestWords, BitVec.setWidth_ushiftRight_eq_extractLsb]
  simp only [low]

/-- DIGEST's bytes, packed four to a word. -/
theorem packWords_digestBytes (s : State) : packWords (digestBytes s) = digestWords s := by
  have low (v : BitVec 64) := packLanes_extractLsb' v 0
  have high (v : BitVec 64) := packLanes_extractLsb' v 32
  simp only [Nat.zero_add, Nat.reduceAdd] at low high
  simp [digestBytes, registerBytes, packWords, packLanes_xor, low, high, digestWords_eq_slices]

/-! ### The slices of the digest number -/

/-- A slice of the logical vector that lies in one word is that word's slice (10_state.md R21). -/
theorem logical_slice_w0 (W : Words) {k len : Nat} (h : k + len ≤ 64) :
    (logical W).extractLsb' k len = W.w0.extractLsb' k len :=
  BitVec.extractLsb'_append_eq_of_add_le h

theorem logical_slice_w1 (W : Words) {k len : Nat} (hk : 64 ≤ k) (h : k + len ≤ 128) :
    (logical W).extractLsb' k len = W.w1.extractLsb' (k - 64) len :=
  (BitVec.extractLsb'_append_eq_of_le hk).trans (BitVec.extractLsb'_append_eq_of_add_le (by omega))

theorem logical_slice_w2 (W : Words) {k len : Nat} (hk : 128 ≤ k) (h : k + len ≤ 160) :
    (logical W).extractLsb' k len = W.w2.extractLsb' (k - 128) len := by
  calc (logical W).extractLsb' k len
    _ = (W.w2.setWidth 32 ++ W.w1).extractLsb' (k - 64) len := BitVec.extractLsb'_append_eq_of_le (by omega)
    _ = (W.w2.setWidth 32).extractLsb' (k - 64 - 64) len := BitVec.extractLsb'_append_eq_of_le (by omega)
    _ = W.w2.extractLsb' (k - 128) len := by
      rw [BitVec.extractLsb'_setWidth_of_le (by omega), Nat.sub_sub]

/-- The count is XORed in at bit 96 (41_digest.md R142): no slice below that sees it. -/
theorem digestNumber_slice_low (s : State) {k len : Nat} (h : k + len ≤ 96) :
    (digestNumber s).extractLsb' k len = (logical s.words).extractLsb' k len := by
  have hcount : (BitVec.setWidth 160 s.total <<< 96).extractLsb' k len = 0 := by
    ext i hi
    have : k + i < 96 := by omega
    simp [this]
  simp [digestNumber, BitVec.extractLsb'_xor, hcount]

/-- From bit 96 on, a slice of the digest number is the accumulator's XOR the count's. -/
theorem digestNumber_slice_high (s : State) {k len : Nat} (hk : 96 ≤ k) (h : k + len ≤ 160) :
    (digestNumber s).extractLsb' k len =
      (logical s.words).extractLsb' k len ^^^ s.total.extractLsb' (k - 96) len := by
  have hcount : (BitVec.setWidth 160 s.total <<< 96).extractLsb' k len = s.total.extractLsb' (k - 96) len := by
    ext i hi
    have hlt : k + i < 160 := by omega
    have hge : ¬ k + i < 96 := by omega
    have hsub : k + i - 96 = k - 96 + i := by omega
    simp [hlt, hge, hsub]
  simp [digestNumber, BitVec.extractLsb'_xor, hcount]

/-- The digest number, cut into five words (20_memory.md R56). -/
theorem digestNumber_slices (s : State) :
    ((List.range 5).map fun q => (digestNumber s).extractLsb' (32 * q) 32) = digestWords s := by
  have hrange : List.range 5 = [0, 1, 2, 3, 4] := rfl
  simp [hrange, digestWords_eq_slices, digestNumber_slice_low, digestNumber_slice_high, logical_slice_w0,
    logical_slice_w1, logical_slice_w2]

/-- DIGEST with room for its words: they join RSPQ and nothing else changes (20_memory.md R52). -/
theorem exec_digest_of_room {s : State} (he : s.emitting = []) (hroom : s.rspq.length + 5 ≤ s.rspDepth) :
    exec .digest s = .next { s with rspq := s.rspq ++ digestWords s } := by
  rw [exec_eq]
  simp only [packWords_digestBytes]
  rw [emitAll_of_room he (by simpa [digestWords] using hroom), ← he]

/-- Settles O29: the words that DIGEST packs from its bytes are the words written out, and those are the number's slices. -/
theorem digestRespondsWithItsSlices : Obligations.DigestRespondsWithItsSlices := by
  intro s he hroom
  have hexec := exec_digest_of_room he hroom
  exact ⟨hexec, by rw [digestNumber_slices]; exact hexec⟩

/-! ### RST -/

/-- In reset the engine does nothing (20_memory.md R53). -/
theorem engineMove_of_rst {s : State} (h : s.rst = true) : engineMove s = .next s := by
  simp [engineMove, h]

/-- The host's release of RST, as a step. -/
theorem step_releaseRst {s : State} {rest : List Turn} (h : s.turns = .releaseRst :: rest) :
    step s = .next (hostReleaseRst { s with turns := rest }) := by
  simp [step, moveOnce, h]

/-- Settles O44: the engine's move stays where it is in reset, and the release after an assertion is a hardware reset. -/
theorem rstHoldsTheEngineUntilReleased : Obligations.RstHoldsTheEngineUntilReleased := by
  constructor
  case left =>
    intro s hturn hrst
    exact (step_engine hturn).trans (engineMove_of_rst hrst)
  case right =>
    intro s rest hturns hrst
    exact ⟨_, step_releaseRst hturns, by simp [hrst, State.reset]⟩

end Sys2Proof.Machine
end

section
/-!
The statements of 40_add.md about one ADD's bookkeeping: the loop's pair (R112), the cursor (R108), the count (R109) and
the empty ADD (R110).
-/
namespace Sys2Proof.Machine

/-! ### The loop's pair -/

/-- The loop's pair is the position `p` of the logical vector (40_add.md R112). -/
def Placer.PairAt (q : Placer) (p : Nat) : Prop := q.wi = p / 64 ∧ q.bo = p % 64

/-- The cell of a position is a whole word with the next word after it, or, from position 128 on, the 32 bits of W[2] with
W[0] after them (40_add.md R104). -/
theorem cell_cases {p : Nat} (hp : p < 160) :
    (p < 128 ∧ cellSize (p / 64) = 64 ∧ nextWord (p / 64) = p / 64 + 1) ∨
    (128 ≤ p ∧ cellSize (p / 64) = 32 ∧ nextWord (p / 64) = 0) := by
  obtain hw | hw | hw : p / 64 = 0 ∨ p / 64 = 1 ∨ p / 64 = 2 := by omega
  · exact .inl ⟨by omega, by simp [hw]⟩
  · exact .inl ⟨by omega, by simp [hw]⟩
  · exact .inr ⟨by omega, by simp [hw]⟩

/-- The offset of a position is inside its cell. -/
theorem mod_lt_cellSize {p : Nat} (hp : p < 160) : p % 64 < cellSize (p / 64) := by
  have hcell := cell_cases hp
  omega

/-- The advance that stays in its cell (40_add.md R106). -/
theorem placeIter_pair_of_lt {q : Placer} (d : List Byte) (i : Nat) (h : q.bo + 11 < cellSize q.wi) :
    (placeIter d q i).wi = q.wi ∧ (placeIter d q i).bo = q.bo + 11 := by
  have hcell : ¬ cellSize q.wi ≤ q.bo + Config.shift := Nat.not_le.mpr h
  rw [placeIter, if_neg hcell]
  exact ⟨rfl, rfl⟩

/-- The advance into the next word (40_add.md R106). -/
theorem placeIter_pair_of_le {q : Placer} (d : List Byte) (i : Nat) (h : cellSize q.wi ≤ q.bo + 11) :
    (placeIter d q i).wi = nextWord q.wi ∧ (placeIter d q i).bo = q.bo + 11 - cellSize q.wi := by
  have hcell : cellSize q.wi ≤ q.bo + Config.shift := h
  rw [placeIter, if_pos hcell]
  exact ⟨rfl, rfl⟩

/-- One iteration moves the pair by 11 positions, circularly: at most one change of word is enough (40_add.md R106). -/
theorem placeIter_pairAt {q : Placer} {p : Nat} (hq : q.PairAt p) (hp : p < 160) (d : List Byte) (i : Nat) :
    (placeIter d q i).PairAt ((p + 11) % 160) := by
  obtain ⟨hwi, hbo⟩ := hq
  have hcell := cell_cases hp
  rw [← hwi] at hcell
  by_cases hstay : q.bo + 11 < cellSize q.wi
  case pos =>
    obtain ⟨hwi', hbo'⟩ := placeIter_pair_of_lt d i hstay
    constructor <;> omega
  case neg =>
    obtain ⟨hwi', hbo'⟩ := placeIter_pair_of_le d i (Nat.not_lt.mp hstay)
    constructor <;> omega

/-- The loop's pair after `i` iterations (40_add.md R112). -/
theorem placeLoop_pairAt (d : List Byte) {c : BitVec 8} (W : Words) (i : Nat) (hc : c.toNat < 160) :
    (placeLoop d c W i).PairAt ((c.toNat + 11 * i) % 160) := by
  induction i with
  | zero =>
    rw [Nat.mul_zero, Nat.add_zero, Nat.mod_eq_of_lt hc]
    exact ⟨rfl, rfl⟩
  | succ i ih =>
    have hpos : (c.toNat + 11 * (i + 1)) % 160 = ((c.toNat + 11 * i) % 160 + 11) % 160 := by omega
    rw [placeLoop_succ, hpos]
    exact placeIter_pairAt ih (Nat.mod_lt _ (by decide)) d i

/-- Settles O22: an offset inside its cell and beyond the last that fits whole leaves a shift of 1 to 7. -/
theorem loopPairIsThePosition : Obligations.LoopPairIsThePosition := by
  intro d c W i hc
  obtain ⟨hwi, hbo⟩ := placeLoop_pairAt d W i hc
  have hin : (placeLoop d c W i).bo < cellSize (placeLoop d c W i).wi := by
    rw [hwi, hbo]
    exact mod_lt_cellSize (Nat.mod_lt _ (by decide))
  exact ⟨hwi, hbo, hin, fun hspill => by omega⟩

/-! ### The cursor -/

/-- The cursor's formula, as a number: the value fits the register, because it is below 160 (40_add.md R108). -/
theorem advanceCursor_toNat (c : BitVec 8) (n : Nat) :
    (advanceCursor c n).toNat = (c.toNat + 11 * (n % 160)) % 160 := by
  have hlt : (c.toNat + 11 * (n % 160)) % 160 < 2 ^ 8 := Nat.lt_trans (Nat.mod_lt _ (by decide)) (by decide)
  exact Nat.mod_eq_of_lt hlt

/-- Settles O17. -/
theorem addAdvancesTheCursor : Obligations.AddAdvancesTheCursor := by
  intro d s
  rw [addBytes_cursor]
  exact advanceCursor_toNat s.cursor d.length

/-! ### The count -/

/-- Settles O18: words and cursor are functions of the payload, the old words and the old cursor alone. -/
theorem addCountsItsBytes : Obligations.AddCountsItsBytes := by
  intro d s
  refine ⟨?total, addBytes_wrap d s, fun x => ⟨?words, ?cursor⟩⟩
  case total => rw [addBytes_total, BitVec.toNat_add, BitVec.toNat_ofNat, Nat.add_mod_mod]
  case words => rw [addBytes_words, addBytes_words]
  case cursor => rw [addBytes_cursor, addBytes_cursor]

/-! ### The empty ADD -/

/-- The loop over no bytes runs no iteration (40_add.md R101). -/
theorem addWords_nil (c : BitVec 8) (W : Words) : addWords [] c W = W := rfl

/-- No bytes leave a cursor where it is, if it is a position (40_add.md R108, R110). -/
theorem advanceCursor_zero {c : BitVec 8} (hc : c.toNat < 160) : advanceCursor c 0 = c := by
  apply BitVec.eq_of_toNat_eq
  rw [advanceCursor_toNat]
  exact Nat.mod_eq_of_lt hc

/-- Counting no bytes changes no count and raises no flag, since a count is below 2^64 (40_add.md R109, R110). -/
theorem countBytes_zero (s : State) : countBytes 0 s = s := by
  have hwraps : countWraps s.total 0 = false := decide_eq_false (Nat.not_le.mpr s.total.isLt)
  ext1 <;> simp [hwraps]

/-- The empty ADD is the identity on every state whose cursor is a position (40_add.md R110). -/
theorem addBytes_nil {s : State} (hc : s.cursor.toNat < 160) : addBytes [] s = s := by
  rw [addBytes, List.length_nil, countBytes_zero, addWords_nil, advanceCursor_zero hc]

/-- Settles O16. -/
theorem emptyAddChangesNothing : Obligations.EmptyAddChangesNothing := by
  refine ⟨by decide, by decide, fun s hc => ?_⟩
  rw [exec_eq]
  exact congrArg _ (addBytes_nil hc)

end Sys2Proof.Machine
end

section
/-!
The statements of 41_digest.md: the digest as a number (R142), the digest of the empty state (R145), and the base64
text: its alphabet (R152), its shape (R154) and its words (R153).
-/
namespace Sys2Proof.Machine

/-! ### Little-endian numbers -/

/-- The second sequence is the more significant one. -/
theorem littleEndian_append (a b : List Byte) :
    littleEndian (a ++ b) = littleEndian a + 2 ^ (8 * a.length) * littleEndian b := by
  induction a with
  | nil => simp [littleEndian]
  | cons x a ih =>
    have hpow : 2 ^ (8 * (x :: a).length) = 256 * 2 ^ (8 * a.length) := by
      rw [List.length_cons, Nat.mul_succ, Nat.pow_add, Nat.mul_comm]
    rw [List.cons_append, littleEndian, littleEndian, ih, hpow, Nat.mul_add, Nat.mul_assoc, Nat.add_assoc]

/-- The first `n` bytes of a register or vector, read little-endian, are its low 8n bits (20_memory.md R55). -/
theorem littleEndian_byte_slices {w : Nat} (v : BitVec w) (n : Nat) :
    littleEndian ((List.range n).map fun k => v.extractLsb' (8 * k) 8) = v.toNat % 2 ^ (8 * n) := by
  induction n with
  | zero => simp [littleEndian, Nat.mod_one]
  | succ n ih =>
    have hbyte : (v.extractLsb' (8 * n) 8).toNat = v.toNat / 2 ^ (8 * n) % 2 ^ 8 := by
      rw [BitVec.extractLsb'_toNat, Nat.shiftRight_eq_div_pow]
    rw [List.range_succ, List.map_append, littleEndian_append, ih, List.length_map, List.length_range,
      Nat.mul_succ, Nat.pow_add, Nat.mod_mul]
    simp [littleEndian, hbyte]

/-! ### The digest as a number -/

theorem digestBytes_length (s : State) : (digestBytes s).length = 20 := rfl

/-- Byte `k` of the digest is the digest number's byte `k` (41_digest.md R141, R142). -/
theorem digestBytes_eq_slices (s : State) :
    digestBytes s = (List.range 20).map fun k => (digestNumber s).extractLsb' (8 * k) 8 := by
  have hrange : List.range 20 = [0, 1, 2, 3, 4, 5, 6, 7, 8, 9, 10, 11, 12, 13, 14, 15, 16, 17, 18, 19] := rfl
  simp [hrange, digestBytes, registerBytes, digestNumber_slice_low, digestNumber_slice_high, logical_slice_w0,
    logical_slice_w1, logical_slice_w2]

/-- The digest number's low 96 bits: W[0] and the low half of W[1], without the count. -/
theorem digestNumber_low (s : State) :
    (digestNumber s).extractLsb' 0 96 = (s.words.w1.setWidth 32 ++ s.words.w0 : BitVec (32 + 64)) := by
  have hw0 : (digestNumber s).extractLsb' 0 64 = s.words.w0 := by
    rw [digestNumber_slice_low s (by decide), logical_slice_w0 s.words (by decide), BitVec.extractLsb'_eq_self]
  have hw1 : (digestNumber s).extractLsb' 64 32 = s.words.w1.setWidth 32 := by
    rw [digestNumber_slice_low s (by decide), logical_slice_w1 s.words (by decide) (by decide),
      BitVec.setWidth_eq_extractLsb' (by decide)]
  rw [← hw0, ← hw1, BitVec.extractLsb'_append_extractLsb'_eq_extractLsb' (by decide)]

/-- The digest number's high 64 bits: the high half of W[1] and the low half of W[2], XOR the count. -/
theorem digestNumber_high (s : State) :
    (digestNumber s).extractLsb' 96 64 =
      ((s.words.w2.setWidth 32 ++ (s.words.w1 >>> 32).setWidth 32 : BitVec (32 + 32)) ^^^ s.total) := by
  have hw1 : (logical s.words).extractLsb' 96 32 = (s.words.w1 >>> 32).setWidth 32 := by
    rw [logical_slice_w1 s.words (by decide) (by decide), BitVec.setWidth_ushiftRight_eq_extractLsb]
  have hw2 : (logical s.words).extractLsb' 128 32 = s.words.w2.setWidth 32 := by
    rw [logical_slice_w2 s.words (by decide) (by decide), BitVec.setWidth_eq_extractLsb' (by decide)]
  rw [digestNumber_slice_high s (by decide) (by decide), BitVec.extractLsb'_eq_self, ← hw1, ← hw2,
    BitVec.extractLsb'_append_extractLsb'_eq_extractLsb' (by decide)]

/-- Settles O30: the digest bytes are the number's twenty bytes, so read little-endian they are the number. -/
theorem digestBytesAreTheDigestNumber : Obligations.DigestBytesAreTheDigestNumber := by
  intro s
  have hnumber : littleEndian (digestBytes s) = (digestNumber s).toNat := by
    rw [digestBytes_eq_slices, littleEndian_byte_slices]
    exact Nat.mod_eq_of_lt (digestNumber s).isLt
  exact ⟨digestBytes_length s, hnumber, rfl, digestNumber_low s, digestNumber_high s⟩

/-! ### The digest of the empty state -/

theorem digestNumber_of_empty {s : State} (h : EmptyHash s) : digestNumber s = 0 := by
  obtain ⟨htotal, hwords, -⟩ := h
  rw [digestNumber, htotal, hwords]
  decide

theorem digestBytes_of_empty {s : State} (h : EmptyHash s) : digestBytes s = List.replicate 20 0 := by
  have hzero (k : Nat) : (digestNumber s).extractLsb' (8 * k) 8 = 0 := by
    rw [digestNumber_of_empty h]
    exact BitVec.extractLsb'_zero
  simp only [digestBytes_eq_slices, hzero, List.map_const', List.length_range]

/-- On the empty state the five words are slices of the number 0. -/
theorem digestWords_of_empty {s : State} (h : EmptyHash s) : digestWords s = [0, 0, 0, 0, 0] := by
  rw [← digestNumber_slices, digestNumber_of_empty h]
  decide

/-- Settles O31: the empty state's digest number is 0, and the bytes, the text and the words come from it. -/
theorem emptyDigestIsZero : Obligations.EmptyDigestIsZero := by
  intro s hempty
  refine ⟨digestBytes_of_empty hempty, ?text, fun hemitting hroom => ?words⟩
  case text =>
    rw [digestBytes_of_empty hempty]
    decide
  case words => rw [exec_digest_of_room hemitting hroom, digestWords_of_empty hempty]

/-! ### The base64 alphabet -/

/-- The code of a character, by the range its index lies in (41_digest.md R152). -/
theorem base64Char_toNat (i : BitVec 6) : (base64Char i).toNat =
    if i.toNat ≤ 25 then 0x41 + i.toNat else if i.toNat ≤ 51 then 0x61 + (i.toNat - 26)
    else if i.toNat ≤ 61 then 0x30 + (i.toNat - 52) else if i.toNat = 62 then 0x2B else 0x2F := by
  have hi : i.toNat < 64 := i.isLt
  unfold base64Char
  split_ifs <;> simp <;> omega

theorem base64Pad_toNat : base64Pad.toNat = 0x3D := rfl

/-- Settles O34. -/
theorem base64AlphabetIsTheTable : Obligations.Base64AlphabetIsTheTable :=
  ⟨base64Char_toNat, rfl⟩

/-- The pad is no character of the alphabet. -/
theorem base64Char_ne_pad (i : BitVec 6) : base64Char i ≠ base64Pad := by
  intro h
  have hcode := congrArg BitVec.toNat h
  rw [base64Char_toNat, base64Pad_toNat] at hcode
  split_ifs at hcode <;> omega

/-! ### The base64 text -/

/-- Bit vectors side by side, as numbers: the left one is the more significant. -/
theorem append_toNat {m n : Nat} (x : BitVec m) (y : BitVec n) :
    (x ++ y).toNat = x.toNat * 2 ^ n + y.toNat := by
  rw [BitVec.toNat_append, ← Nat.shiftLeft_add_eq_or_of_lt y.isLt, Nat.shiftLeft_eq]

/-- A group's text is four characters of the alphabet (41_digest.md R151). -/
theorem base64Quad_eq_map (v : BitVec 24) :
    ∃ idx : List (BitVec 6), idx.length = 4 ∧ base64Quad v = idx.map base64Char :=
  ⟨[_, _, _, _], rfl, rfl⟩

/-- Two bytes left over: three characters of the alphabet and the pad, the third for the last byte's low four bits
(41_digest.md R151, R154). -/
theorem base64_pair (b c : Byte) :
    ∃ i j : BitVec 6, base64 [b, c] =
      [base64Char i, base64Char j, base64Char (BitVec.ofNat 6 (c.toNat % 16 * 4)), base64Pad] := by
  have hindex : (b ++ c ++ (0 : Byte)).extractLsb' 6 6 = BitVec.ofNat 6 (c.toNat % 16 * 4) := by
    have hzero : (0 : Byte).toNat = 0 := rfl
    apply BitVec.eq_of_toNat_eq
    rw [BitVec.extractLsb'_toNat, Nat.shiftRight_eq_div_pow, append_toNat, append_toNat, hzero, BitVec.toNat_ofNat]
    omega
  rw [← hindex]
  exact ⟨_, _, rfl⟩

/-- The text of full groups and two bytes left over: four characters for each group, then three, then the pad. -/
theorem base64_of_two_left (n : Nat) (B : List Byte) (h : B.length = 3 * n + 2) :
    ∃ idx : List (BitVec 6), idx.length = 4 * n + 3 ∧ base64 B = idx.map base64Char ++ [base64Pad] ∧
      idx.getD (4 * n + 2) 0 = BitVec.ofNat 6 ((B.getD (3 * n + 1) 0).toNat % 16 * 4) := by
  induction n generalizing B with
  | zero =>
    obtain ⟨b, c, rfl⟩ := List.length_eq_two.mp h
    obtain ⟨i, j, htext⟩ := base64_pair b c
    exact ⟨[i, j, _], rfl, htext, rfl⟩
  | succ n ih =>
    match B, h with
    | b0 :: b1 :: b2 :: rest, h =>
      have hrest : rest.length = 3 * n + 2 := by simp only [List.length_cons] at h; omega
      obtain ⟨idx, hlen, htext, hlast⟩ := ih rest hrest
      obtain ⟨quad, hquad, hgroup⟩ := base64Quad_eq_map (b0 ++ b1 ++ b2)
      refine ⟨quad ++ idx, ?length, ?text, ?last⟩
      case length => rw [List.length_append, hquad, hlen]; omega
      case text => rw [base64, hgroup, htext, List.map_append, List.append_assoc]
      case last =>
        have hskip : 4 * (n + 1) + 2 - quad.length = 4 * n + 2 := by omega
        rw [List.getD_append_right _ _ _ _ (by omega), hskip, hlast]
        rfl

/-- The digest's text: 27 characters of the alphabet and the pad (41_digest.md R154). -/
theorem base64_digestBytes (s : State) :
    ∃ idx : List (BitVec 6), idx.length = 27 ∧ base64 (digestBytes s) = idx.map base64Char ++ [base64Pad] ∧
      idx.getD 26 0 = BitVec.ofNat 6 (((digestBytes s).getD 19 0).toNat % 16 * 4) :=
  base64_of_two_left 6 (digestBytes s) (digestBytes_length s)

/-- A character of the text before its pad. -/
theorem getD_map_base64Char_append {idx : List (BitVec 6)} {k : Nat} (hk : k < idx.length) (tail : List Byte) :
    (idx.map base64Char ++ tail).getD k 0 = base64Char (idx.getD k 0) := by
  rw [List.getD_append _ _ _ _ (by simpa using hk)]
  simp [hk]

theorem base64_digestBytes_length (s : State) : (base64 (digestBytes s)).length = 28 := by
  obtain ⟨idx, hlen, htext, -⟩ := base64_digestBytes s
  simp [htext, hlen]

theorem base64_digestBytes_pad (s : State) : (base64 (digestBytes s)).getD 27 0 = base64Pad := by
  obtain ⟨idx, hlen, htext, -⟩ := base64_digestBytes s
  simp [htext, hlen]

/-- Settles O36: the text is 27 characters of the alphabet, none of them the pad, and the pad. -/
theorem base64TextHasItsShape : Obligations.Base64TextHasItsShape := by
  intro s
  refine ⟨base64_digestBytes_length s, base64_digestBytes_pad s, ?_⟩
  obtain ⟨idx, hlen, htext, hlast⟩ := base64_digestBytes s
  have hchar (k : Nat) (hk : k < 27) : (base64 (digestBytes s)).getD k 0 = base64Char (idx.getD k 0) := by
    rw [htext, getD_map_base64Char_append (hlen ▸ hk)]
  refine ⟨fun k hk => ⟨?notPad, idx.getD k 0, hchar k hk⟩, ?low⟩
  case notPad =>
    rw [hchar k hk]
    exact base64Char_ne_pad _
  case low => rw [hchar 26 (by decide), hlast]

/-! ### The words of B64DIGEST -/

/-- A port word as the number its lanes make (20_memory.md R54). -/
theorem packLanes_toNat (b0 b1 b2 b3 : Byte) :
    (packLanes b0 b1 b2 b3).toNat = b0.toNat + b1.toNat * 2 ^ 8 + b2.toNat * 2 ^ 16 + b3.toNat * 2 ^ 24 := by
  simp only [packLanes, append_toNat]
  omega

/-- Whole words of bytes: word `q` is made of bytes 4q to 4q + 3 (20_memory.md R54). -/
theorem packWords_of_whole_words (n : Nat) (B : List Byte) (h : B.length = 4 * n) :
    packWords B = (List.range n).map fun q =>
      packLanes (B.getD (4 * q) 0) (B.getD (4 * q + 1) 0) (B.getD (4 * q + 2) 0) (B.getD (4 * q + 3) 0) := by
  induction n generalizing B with
  | zero => rw [List.length_eq_zero_iff.mp h]; rfl
  | succ n ih =>
    match B, h with
    | b0 :: b1 :: b2 :: b3 :: rest, h =>
      have hrest : rest.length = 4 * n := by simp only [List.length_cons] at h; omega
      rw [packWords, ih rest hrest, List.range_succ_eq_map, List.map_cons, List.map_map]
      rfl

/-- B64DIGEST with room for its words: they join RSPQ and nothing else changes (20_memory.md R52). -/
theorem exec_b64digest_of_room {s : State} (he : s.emitting = []) (hroom : s.rspq.length + 7 ≤ s.rspDepth) :
    exec .b64digest s = .next { s with rspq := s.rspq ++ packWords (base64 (digestBytes s)) } := by
  have hwords : (packWords (base64 (digestBytes s))).length = 7 := by
    simp [packWords_of_whole_words 7 _ (base64_digestBytes_length s)]
  have hemit := emitAll_of_room he (hwords ▸ hroom)
  rw [← he] at hemit
  exact (exec_eq .b64digest s).trans (congrArg _ hemit)

/-- Settles O33: the text is seven whole words, and the last lane of the last word is the pad. -/
theorem b64DigestRespondsWithItsText : Obligations.B64DigestRespondsWithItsText := by
  intro s hemitting hroom T word
  have hword (q : Nat) : packLanes (T.getD (4 * q) 0) (T.getD (4 * q + 1) 0) (T.getD (4 * q + 2) 0)
      (T.getD (4 * q + 3) 0) = word q := by
    simp only [word, ← packLanes_toNat, BitVec.ofNat_toNat, BitVec.setWidth_eq]
  have hpack : packWords T = (List.range 7).map word := by
    rw [packWords_of_whole_words 7 T (base64_digestBytes_length s)]
    simp only [hword]
  refine ⟨?next, ?pad⟩
  case next => rw [exec_b64digest_of_room hemitting hroom, ← hpack]
  case pad =>
    have hpad : T.getD 27 0 = base64Pad := base64_digestBytes_pad s
    rw [← hword 6, packLanes_toNat, hpad, base64Pad_toNat]
    omega

end Sys2Proof.Machine
end

section
/-!
The statements of 42_control.md: the words of RDSTAT (R175) and of RDCFG (R180).
-/
namespace Sys2Proof.Machine

/-- With room for all of its words and none left over, a command's emission appends them and changes nothing else
(20_memory.md R52). -/
theorem emitAll_of_room_append {s : State} {vs : List PortWord} (he : s.emitting = [])
    (hroom : s.rspq.length + vs.length ≤ s.rspDepth) :
    emitAll vs s = { s with rspq := s.rspq ++ vs } := by
  rw [emitAll_of_room he hroom, ← he]

/-! ### STATUS as a number -/

/-- A flag at its place in STATUS weighs 2^place when it is set (10_state.md R27). -/
theorem flagBit_toNat (b : Bool) {place : Nat} (hplace : place < 32) :
    (flagBit b place).toNat = b.toNat * 2 ^ place := by
  have hpow : 2 ^ place < 2 ^ 32 := Nat.pow_lt_pow_right (by decide) hplace
  cases b with
  | false => simp [flagBit]
  | true => simpa [flagBit, Nat.shiftLeft_eq] using hpow

/-- A flag set above every bit of a word adds its weight to the word: OR meets no carry. -/
theorem or_flagBit_toNat {v : PortWord} {place : Nat} (b : Bool) (hv : v.toNat < 2 ^ place) (hplace : place < 32) :
    (v ||| flagBit b place).toNat = v.toNat + b.toNat * 2 ^ place := by
  rw [BitVec.toNat_or, flagBit_toNat b hplace, Nat.or_comm, ← Nat.shiftLeft_eq, ← Nat.shiftLeft_add_eq_or_of_lt hv,
    Nat.add_comm]

/-- STATUS as a number: its fields lie apart, the cursor below bit 8 and the flags at bits 8, 9 and 10
(10_state.md R27). -/
theorem statusWord_toNat (s : State) :
    (statusWord s).toNat =
      s.cursor.toNat + s.illop.toNat * 2 ^ 8 + s.rsvd.toNat * 2 ^ 9 + s.wrap.toNat * 2 ^ 10 := by
  have hcursor : (s.cursor.setWidth 32).toNat = s.cursor.toNat := BitVec.toNat_setWidth_of_le (by decide)
  have hlt := s.cursor.isLt
  have hillop := s.illop.toNat_lt
  have hrsvd := s.rsvd.toNat_lt
  have belowIllop : (s.cursor.setWidth 32).toNat < 2 ^ 8 := by omega
  have withIllop := or_flagBit_toNat s.illop belowIllop (by decide)
  have belowRsvd : (s.cursor.setWidth 32 ||| flagBit s.illop 8).toNat < 2 ^ 9 := by omega
  have withRsvd := or_flagBit_toNat s.rsvd belowRsvd (by decide)
  have belowWrap : (s.cursor.setWidth 32 ||| flagBit s.illop 8 ||| flagBit s.rsvd 9).toNat < 2 ^ 10 := by omega
  have withWrap := or_flagBit_toNat s.wrap belowWrap (by decide)
  rw [statusWord, withWrap, withRsvd, withIllop, hcursor]

/-! ### The halves of the count -/

theorem total_low_half (s : State) : s.total.extractLsb' 0 32 = BitVec.ofNat 32 (s.total.toNat % 2 ^ 32) := by
  apply BitVec.eq_of_toNat_eq
  simp

theorem total_high_half (s : State) : s.total.extractLsb' 32 32 = BitVec.ofNat 32 (s.total.toNat / 2 ^ 32) := by
  apply BitVec.eq_of_toNat_eq
  simp [Nat.shiftRight_eq_div_pow]

/-! ### The commands -/

/-- Settles O39: STATUS is the sum of its fields, and the two halves of the count follow it. -/
theorem rdstatRespondsWithStatusAndCount : Obligations.RdstatRespondsWithStatusAndCount := by
  refine ⟨by decide, fun s hemitting hroom => ?_⟩
  rw [exec_eq, ← statusWord_toNat, BitVec.ofNat_toNat, BitVec.setWidth_eq, ← total_low_half, ← total_high_half]
  exact congrArg _ (emitAll_of_room_append hemitting hroom)

/-- The configuration word, from the four constants it packs (10_state.md R28). -/
theorem configWord_eq : configWord = 0x03140BA0 := by decide

/-- Settles O40: the word is packed from constants, so every state emits the same one. -/
theorem rdcfgRespondsWithTheConfiguration : Obligations.RdcfgRespondsWithTheConfiguration := by
  refine ⟨by decide, fun s hemitting hroom => ?_⟩
  rw [exec_eq, ← configWord_eq]
  exact congrArg _ (emitAll_of_room_append hemitting hroom)

end Sys2Proof.Machine
end

section
/-!
The statements of 60_exceptions.md: a word with an illegal opcode (R200) and a word with a nonzero reserved argument (R201).
-/
namespace Sys2Proof.Machine

/-! ### The fields of a command word -/

/-- OP as a number: the quotient by 2^28 (30_encoding.md R80). -/
theorem opField_toNat (c : PortWord) : (opField c).toNat = c.toNat / 2 ^ 28 := by
  have hlt := c.isLt
  rw [opField, BitVec.extractLsb'_toNat, Nat.shiftRight_eq_div_pow]
  omega

/-- ARG as a number: the remainder by 2^28 (30_encoding.md R80). -/
theorem argField_toNat (c : PortWord) : (argField c).toNat = c.toNat % 2 ^ 28 := by
  rw [argField, BitVec.extractLsb'_toNat, Nat.shiftRight_zero]

/-! ### The two classes of illegal words -/

/-- An opcode of no command is illegal, whatever the argument (30_encoding.md R85, 60_exceptions.md R204). -/
theorem decode_of_illegal_opcode {c : PortWord} (hop : c.toNat / 2 ^ 28 = 0 ∨ 7 ≤ c.toNat / 2 ^ 28) :
    decode c = .error .illop := by
  rw [← opField_toNat] at hop
  obtain ⟨h, -⟩ | ⟨h, -⟩ | ⟨h, -⟩ | ⟨h, -⟩ | ⟨h, -⟩ | ⟨h, -⟩ | ⟨-, hd⟩ := decode_cases c
  case inr.inr.inr.inr.inr.inr => exact hd
  all_goals omega

/-- A command without operand is refused when its argument is not 0 (30_encoding.md R84). -/
theorem noOperand_of_ne_zero {arg : BitVec 28} (i : Instr) (h : arg ≠ 0) : noOperand arg i = .error .rsvd :=
  if_neg h

/-- The commands other than ADD have no operand, so a nonzero argument is illegal for each (30_encoding.md R85). -/
theorem decode_of_reserved_argument {c : PortWord} (hop : c.toNat / 2 ^ 28 ∈ [1, 3, 4, 5, 6])
    (harg : c.toNat % 2 ^ 28 ≠ 0) : decode c = .error .rsvd := by
  have hne : argField c ≠ 0 := fun h => harg (by rw [← argField_toNat, h]; rfl)
  simp only [← opField_toNat, List.mem_cons, List.not_mem_nil, or_false] at hop
  obtain ⟨-, hd⟩ | ⟨h, -⟩ | ⟨-, hd⟩ | ⟨-, hd⟩ | ⟨-, hd⟩ | ⟨-, hd⟩ | ⟨h, -⟩ := decode_cases c
  case inr.inl => omega
  case inr.inr.inr.inr.inr.inr => omega
  all_goals exact hd.trans (noOperand_of_ne_zero _ hne)

/-! ### The step on an illegal word -/

/-- An illegal word is consumed and raises its cause; no command is executed (60_exceptions.md R203). -/
theorem step_of_decode_error {s : State} {v : PortWord} {rest : List PortWord} {e : Illegal} (htakes : TakesWord s)
    (hidle : s.phase = .idle) (hcmdIn : s.cmdIn = v :: rest) (hdecode : decode v = .error e) :
    step s = .next (raiseError (illegalCause e) (afterTake s rest)) := by
  rw [step_takes_word htakes hcmdIn]
  simp [takeWord, takeCommand, afterTake, hidle, hdecode]

/-- Settles O7: the decoder answers `illop`, and raising that cause sets one flag. -/
theorem illegalOpcodeSetsIllopAlone : Obligations.IllegalOpcodeSetsIllopAlone := by
  intro s v rest htakes hidle hcmdIn hop
  exact step_of_decode_error htakes hidle hcmdIn (decode_of_illegal_opcode hop)

/-- Settles O8: the decoder answers `rsvd`, and raising that cause sets one flag. -/
theorem reservedArgumentSetsRsvdAlone : Obligations.ReservedArgumentSetsRsvdAlone := by
  intro s v rest htakes hidle hcmdIn hop harg
  exact step_of_decode_error htakes hidle hcmdIn (decode_of_reserved_argument hop harg)

end Sys2Proof.Machine
end

section
/-!
The statements of 30_encoding.md about command words: decoder and encoder agree (R80 to R85), and each word is classified
by its two fields (R85, 60_exceptions.md R204).
-/
namespace Sys2Proof.Machine

/-! ### The fields of an assembled word -/

/-- A command word as a number: OP weighs 2^28 (30_encoding.md R80). -/
theorem commandWord_toNat (op : BitVec 4) (arg : BitVec 28) :
    (commandWord op arg).toNat = op.toNat * 2 ^ 28 + arg.toNat :=
  append_toNat op arg

/-- Two words with the same opcode and the same argument are one word: the fields drop no bit (30_encoding.md R80). -/
theorem eq_of_fields {c c' : PortWord} (hop : (opField c).toNat = (opField c').toNat)
    (harg : (argField c).toNat = (argField c').toNat) : c = c' := by
  apply BitVec.eq_of_toNat_eq
  rw [opField_toNat, opField_toNat] at hop
  rw [argField_toNat, argField_toNat] at harg
  omega

/-- The argument of an encoded ADD is its length (30_encoding.md R83). -/
theorem argField_encode_add {n : Nat} (hn : n < 2 ^ 28) : (argField (encode (.add n))).toNat = n := by
  have hword : (encode (.add n)).toNat = 2 * 2 ^ 28 + n := by
    rw [encode, commandWord_toNat, BitVec.toNat_ofNat, Nat.mod_eq_of_lt hn]
    rfl
  rw [argField_toNat, hword]
  omega

/-! ### Decode and encode -/

theorem decode_encode_add {n : Nat} (hn : n < 2 ^ 28) : decode (encode (.add n)) = .ok (.add n) := by
  have hop : (opField (encode (.add n))).toNat = 2 := Laws.EncodedOpcode.add n
  simp only [decode, hop, argField_encode_add hn]

/-- Settles O2: ADD goes through its argument field, every other command has one word. -/
theorem decodeOfEncodeIsTheCommand : Obligations.DecodeOfEncodeIsTheCommand := by
  intro i hwf
  cases i with
  | add n => exact decode_encode_add (of_decide_eq_true hwf)
  | reset => decide
  | digest => decide
  | b64digest => decide
  | rdstat => decide
  | rdcfg => decide

/-- A command without operand is decoded exactly from the argument 0 (30_encoding.md R84). -/
theorem noOperand_eq_ok {arg : BitVec 28} {i j : Instr} : noOperand arg i = .ok j ↔ arg = 0 ∧ i = j := by
  unfold noOperand
  split <;> simp_all

theorem noOperand_eq_rsvd {arg : BitVec 28} {i : Instr} : noOperand arg i = .error .rsvd ↔ arg ≠ 0 := by
  unfold noOperand
  split <;> simp_all

theorem noOperand_ne_illop {arg : BitVec 28} {i : Instr} : noOperand arg i ≠ .error .illop := by
  unfold noOperand
  split <;> simp_all

/-- A word with the opcode of an encoded command and the argument 0 is the command's word, if that has argument 0. -/
theorem encode_of_noOperand {c : PortWord} {i j : Instr} (hop : (opField c).toNat = (opField (encode i)).toNat)
    (hi : argField (encode i) = 0) (hwf : i.WellFormed) (hd : noOperand (argField c) i = .ok j) :
    j.WellFormed ∧ encode j = c := by
  obtain ⟨harg, rfl⟩ := noOperand_eq_ok.mp hd
  exact ⟨hwf, eq_of_fields hop.symm (by rw [hi, harg])⟩

/-- Settles O3: the opcode and the argument that the decoder read are those of the command's word. -/
theorem legalWordIsTheWordOfItsCommand : Obligations.LegalWordIsTheWordOfItsCommand := by
  intro c j h
  obtain ⟨hop, hd⟩ | ⟨hop, hd⟩ | ⟨hop, hd⟩ | ⟨hop, hd⟩ | ⟨hop, hd⟩ | ⟨hop, hd⟩ | ⟨-, hd⟩ := decode_cases c <;> rw [hd] at h
  · exact encode_of_noOperand (hop.trans Laws.EncodedOpcode.reset.symm) (by decide) rfl h
  · obtain rfl : .add (argField c).toNat = j := Except.ok.inj h
    have hlt : (argField c).toNat < 2 ^ 28 := (argField c).isLt
    exact ⟨decide_eq_true hlt,
      eq_of_fields ((Laws.EncodedOpcode.add _).trans hop.symm) (argField_encode_add hlt)⟩
  · exact encode_of_noOperand (hop.trans Laws.EncodedOpcode.digest.symm) (by decide) rfl h
  · exact encode_of_noOperand (hop.trans Laws.EncodedOpcode.b64digest.symm) (by decide) rfl h
  · exact encode_of_noOperand (hop.trans Laws.EncodedOpcode.rdstat.symm) (by decide) rfl h
  · exact encode_of_noOperand (hop.trans Laws.EncodedOpcode.rdcfg.symm) (by decide) rfl h
  · cases h

/-- Each well-formed command is decoded from its own word and from no other (30_encoding.md R85). -/
theorem decode_eq_ok_iff (i : Instr) (hwf : i.WellFormed) (c : PortWord) :
    decode c = .ok i ↔ c.toNat = (encode i).toNat := by
  constructor
  · intro h
    rw [(legalWordIsTheWordOfItsCommand c i h).2]
  · intro h
    rw [BitVec.eq_of_toNat_eq h]
    exact decodeOfEncodeIsTheCommand i hwf

/-! ### The classification of a word by its fields -/

/-- ILLOP is the answer for the opcodes of no command alone (60_exceptions.md R200). -/
theorem decode_eq_illop_iff (c : PortWord) :
    decode c = .error .illop ↔ c.toNat / 2 ^ 28 = 0 ∨ 7 ≤ c.toNat / 2 ^ 28 := by
  refine ⟨fun h => ?_, decode_of_illegal_opcode⟩
  rw [← opField_toNat]
  obtain ⟨-, hd⟩ | ⟨-, hd⟩ | ⟨-, hd⟩ | ⟨-, hd⟩ | ⟨-, hd⟩ | ⟨-, hd⟩ | ⟨hop, -⟩ := decode_cases c
  case inr.inl => cases hd.symm.trans h
  case inr.inr.inr.inr.inr.inr => exact hop
  all_goals exact absurd (hd.symm.trans h) noOperand_ne_illop

/-- RSVD is the answer for a nonzero argument of a command without operand alone (60_exceptions.md R201). -/
theorem decode_eq_rsvd_iff (c : PortWord) :
    decode c = .error .rsvd ↔ c.toNat / 2 ^ 28 ∈ [1, 3, 4, 5, 6] ∧ c.toNat % 2 ^ 28 ≠ 0 := by
  refine ⟨fun h => ?_, fun ⟨hop, harg⟩ => decode_of_reserved_argument hop harg⟩
  have hne {i : Instr} (hd : decode c = noOperand (argField c) i) : (argField c).toNat ≠ 0 := fun hzero =>
    noOperand_eq_rsvd.mp (hd.symm.trans h) (BitVec.eq_of_toNat_eq hzero)
  rw [← opField_toNat, ← argField_toNat]
  obtain ⟨hop, hd⟩ | ⟨-, hd⟩ | ⟨hop, hd⟩ | ⟨hop, hd⟩ | ⟨hop, hd⟩ | ⟨hop, hd⟩ | ⟨-, hd⟩ := decode_cases c
  case inr.inl => cases hd.symm.trans h
  case inr.inr.inr.inr.inr.inr => cases hd.symm.trans h
  all_goals exact ⟨by simp [hop], hne hd⟩

/-- Settles O4: the two kinds of illegal word by their fields, each command without operand by its one word. -/
theorem everyWordIsClassifiedByItsFields : Obligations.EveryWordIsClassifiedByItsFields := fun c =>
  ⟨decode_eq_illop_iff c, decode_eq_rsvd_iff c, decode_eq_ok_iff .reset rfl c,
    decode_eq_ok_iff .digest rfl c, decode_eq_ok_iff .b64digest rfl c,
    decode_eq_ok_iff .rdstat rfl c, decode_eq_ok_iff .rdcfg rfl c⟩

/-- Settles O5: opcode 2 alone is ADD's, and the length it decodes to is the argument field. -/
theorem addLengthIsTheArgumentField : Obligations.AddLengthIsTheArgumentField := by
  intro c n
  rw [← opField_toNat, ← argField_toNat]
  constructor
  · intro h
    obtain ⟨hwf, hword⟩ := legalWordIsTheWordOfItsCommand c (.add n) h
    rw [← hword]
    exact ⟨Laws.EncodedOpcode.add n, (argField_encode_add (of_decide_eq_true hwf)).symm⟩
  · rintro ⟨hop, rfl⟩
    simp only [decode, hop]

/-- Settles O1: each of the nine words is evaluated. -/
theorem sampleWordsDecode : Obligations.SampleWordsDecode := by
  unfold Obligations.SampleWordsDecode
  decide

end Sys2Proof.Machine
end

section
/-!
The statements of 20_memory.md about the ports: what a reading command emits (R52, R58), the wait for room (R51, R52), the
engine's turn (R60), the host's acts (R51, R52) and RST (R53, 70_reset_and_hazards.md R230).
-/
namespace Sys2Proof.Machine

/-! ### The words of the reading commands -/

/-- The words a command emits (30_encoding.md R88), none for RESET and ADD. -/
def readerWords : Instr → State → List PortWord
  | .reset, _ => []
  | .add _, _ => []
  | .digest, s => packWords (digestBytes s)
  | .b64digest, s => packWords (base64 (digestBytes s))
  | .rdstat, s => [statusWord s, s.total.extractLsb' 0 32, s.total.extractLsb' 32 32]
  | .rdcfg, _ => [configWord]

/-- A reading command emits its words and does nothing else (20_memory.md R58). -/
theorem exec_reader {i : Instr} (hi : isReader i = true) (s : State) :
    exec i s = .next (emitAll (readerWords i s) s) := by
  rw [exec_eq]
  cases i with
  | reset => exact absurd hi (by decide)
  | add n => exact absurd hi Bool.false_ne_true
  | digest => rfl
  | b64digest => rfl
  | rdstat => rfl
  | rdcfg => rfl

theorem readerWords_length (i : Instr) (s : State) : (readerWords i s).length = responseLength i := by
  cases i with
  | digest => rw [readerWords, packWords_digestBytes]; rfl
  | b64digest => rw [readerWords, packWords_of_whole_words 7 _ (base64_digestBytes_length s)]; rfl
  | reset => rfl
  | add n => rfl
  | rdstat => rfl
  | rdcfg => rfl

/-- The words of a reading command see neither the queue nor the waiting words nor the depth (20_memory.md R52, R58). -/
theorem readerWords_withRoom (i : Instr) (s : State) (q vs : List PortWord) (depth : Nat) :
    readerWords i { s with rspq := q, emitting := vs, rspDepth := depth } = readerWords i s := by
  cases i <;> rfl

theorem readerWords_emitAll (i : Instr) (vs : List PortWord) (s : State) :
    readerWords i (emitAll vs s) = readerWords i s :=
  readerWords_withRoom i s (emitAll vs s).rspq (emitAll vs s).emitting s.rspDepth

/-- Settles O41: emission cuts the command's words at the room, and the words see neither queue nor depth. -/
theorem readersEmitTheSameWordsWhateverTheRoom : Obligations.ReadersEmitTheSameWordsWhateverTheRoom := by
  intro i s hi
  refine ⟨readerWords i s, readerWords_length i s, fun q depth => ?_⟩
  rw [exec_reader hi, readerWords_withRoom]
  rfl

/-- Settles O42: each time the words join the stream at its end, and emitting them does not change them. -/
theorem readersAreRepeatable : Obligations.ReadersAreRepeatable := by
  intro i s t u hi ht hu
  rw [exec_reader hi] at ht hu
  obtain rfl := Host.Outcome.next.inj ht
  obtain rfl := Host.Outcome.next.inj hu
  refine ⟨readerWords i s, readerWords_length i s, emitAll_responses _ _, ?_⟩
  rw [readerWords_emitAll]
  exact emitAll_responses _ _

/-! ### The wait for room -/

/-- On the engine's turn, words that wait are emitted as far as they fit (20_memory.md R51, R52). -/
theorem step_drain {s : State} (hturn : engineTurn s = true) (hrst : s.rst = false) (hemitting : s.emitting ≠ []) :
    step s = .next (drainEmits { s with turns := s.turns.tail }) := by
  rw [step_engine hturn]
  simp [engineMove, hrst, hemitting]

/-- Settles O10: the room is what the depth leaves over. -/
theorem waitingEmitsFillTheRoom : Obligations.WaitingEmitsFillTheRoom := by
  rintro s _ hturn hrst rfl hne
  rw [step_drain hturn hrst hne]
  refine ⟨fun k _ hk => ?exact, fun hall => ?all⟩
  case exact =>
    have hroom : rspRoom { s with turns := s.turns.tail } = k := Nat.sub_eq_of_eq_add (by rw [← hk, Nat.add_comm])
    rw [drainEmits, hroom]
  case all => exact congrArg _ (drainEmits_of_room hall)

/-! ### The host's acts, as steps -/

theorem step_take {s : State} {rest : List Turn} (h : s.turns = .take :: rest) :
    step s = .next (hostTake { s with turns := rest }) := by
  simp [step, moveOnce, h]

theorem step_deliver {s : State} {v : PortWord} {rest : List Turn} (h : s.turns = .deliver v :: rest) :
    step s = .next (hostDeliver v { s with turns := rest }) := by
  simp [step, moveOnce, h]

theorem step_assertRst {s : State} {rest : List Turn} (h : s.turns = .assertRst :: rest) :
    step s = .next (hostAssertRst { s with turns := rest }) := by
  simp [step, moveOnce, h]

/-- Settles O47: a take from a queue with a front word, and from an empty one. -/
theorem hostTakesTheOldestResponse : Obligations.HostTakesTheOldestResponse := by
  intro s rest hturns
  rw [step_take hturns]
  exact ⟨fun v q hq => congrArg _ (hostTake_cons hq), fun hempty => congrArg _ (hostTake_empty hempty)⟩

/-- Settles O48. -/
theorem deliveredWordsKeepTheirOrder : Obligations.DeliveredWordsKeepTheirOrder :=
  fun _ _ _ hturns => step_deliver hturns

/-- Settles O43: the assertion is a hardware reset with RST held. -/
theorem assertRstResetsTheEngine : Obligations.AssertRstResetsTheEngine := by
  intro s rest hturns
  exact ⟨_, step_assertRst hturns, rfl, rfl, rfl, rfl, rfl, rfl, rfl, rfl, rfl, rfl⟩

/-- Settles O45. -/
theorem releaseWithoutAssertionChangesNothing : Obligations.ReleaseWithoutAssertionChangesNothing := by
  intro s rest hturns hrst
  exact (step_releaseRst hturns).trans (congrArg _ (hostReleaseRst_of_released hrst))

/-- The turn of a reset by RST is an assertion, or a release of RST while it is asserted (20_memory.md R53, log 20). -/
theorem rstTurn_cases {s : State} (h : rstTurn s = true) :
    (∃ rest, s.turns = .assertRst :: rest) ∨ ∃ rest, s.turns = .releaseRst :: rest ∧ s.rst = true := by
  unfold rstTurn at h
  split at h
  case h_1 rest hturns => exact .inl ⟨rest, hturns⟩
  case h_2 rest hturns => exact .inr ⟨rest, hturns, h⟩
  case h_3 => cases h

/-- Settles O46: a hardware reset touches neither side of the ports that is the host's. -/
theorem rstLeavesThePortsToTheHost : Obligations.RstLeavesThePortsToTheHost := by
  intro s h
  obtain ⟨rest, hturns⟩ | ⟨rest, hturns, -⟩ := rstTurn_cases h
  · exact ⟨_, step_assertRst hturns, rfl, rfl, rfl, by rw [hturns]; rfl⟩
  · exact ⟨_, step_releaseRst hturns, by simp [hturns]⟩

/-! ### A waiting command finishes -/

/-- A run goes on from the next state. -/
theorem coreRun_succ (M : Host.Core) {s t : M.State} (h : M.step s = .next t) (k : Nat) :
    M.run (k + 1) s = M.run k t := by
  simp only [Host.Core.run, h]

/-- The machine's run, with its state's type written out. -/
def machineRun (k : Nat) (s : State) : Host.Outcome State Fault Refusal := Host.Core.run Sys2Proof.core k s

@[simp] theorem machineRun_zero (s : State) : machineRun 0 s = .next s := rfl

theorem machineRun_succ {s t : State} (h : step s = .next t) (k : Nat) : machineRun (k + 1) s = machineRun k t :=
  coreRun_succ Sys2Proof.core h k

/-- A take from a full queue and the engine's move after it: the oldest word goes to the host, and the oldest waiting word
follows it into the queue (20_memory.md R52). -/
theorem machineRun_take_engine {s : State} {v w : PortWord} {q ws : List PortWord} {rest : List Turn} (hrst : s.rst = false)
    (hturns : s.turns = .take :: .engine :: rest) (hq : s.rspq = v :: q) (hfull : s.rspq.length = s.rspDepth)
    (hemitting : s.emitting = w :: ws) (k : Nat) :
    machineRun (k + 2) s = machineRun k
      { s with turns := rest, taken := s.taken ++ [v], rspq := q ++ [w], emitting := ws } := by
  have htake := (hostTakesTheOldestResponse s _ hturns).1 v q hq
  have hone : q.length + 1 = s.rspDepth := by rw [← hfull, hq]; rfl
  have hmove := (waitingEmitsFillTheRoom { s with rspq := q, taken := s.taken ++ [v], turns := .engine :: rest } (w :: ws)
    rfl hrst hemitting (List.cons_ne_nil _ _)).1 1 (Nat.succ_le_succ (Nat.zero_le _)) hone
  rw [machineRun_succ htake, machineRun_succ hmove]
  rfl

/-- A command that waits on a full queue passes on one word with each pair of moves, by induction on its words
(70_reset_and_hazards.md R251). -/
theorem machineRun_takes_emitting (ws : List PortWord) (s : State) (hemitting : s.emitting = ws) (hrst : s.rst = false)
    (hdepth : 1 ≤ s.rspDepth) (hfull : s.rspq.length = s.rspDepth)
    (hturns : s.turns = (List.replicate ws.length [Turn.take, Turn.engine]).flatten) :
    machineRun (2 * ws.length) s = .next { s with
      turns := [], emitting := []
      taken := s.taken ++ (s.rspq ++ ws).take ws.length
      rspq := (s.rspq ++ ws).drop ws.length } := by
  induction ws generalizing s with
  | nil =>
    refine congrArg _ ?_
    ext1 <;> simp [hemitting, hturns]
  | cons w ws ih =>
    have hpair : s.turns = .take :: .engine :: (List.replicate ws.length [Turn.take, Turn.engine]).flatten := hturns
    obtain ⟨v, q, hq⟩ := List.exists_cons_of_length_pos (hfull ▸ hdepth : 0 < s.rspq.length)
    rw [List.length_cons, Nat.mul_succ, machineRun_take_engine hrst hpair hq hfull hemitting]
    rw [ih { s with turns := _, taken := s.taken ++ [v], rspq := q ++ [w], emitting := ws } rfl hrst hdepth
      (by simpa [hq] using hfull) rfl]
    simp [hq]

/-- Settles O11. -/
theorem waitingCommandFinishesAsTheHostTakes : Obligations.WaitingCommandFinishesAsTheHostTakes :=
  fun s hrst hdepth hfull hturns => machineRun_takes_emitting s.emitting s rfl hrst hdepth hfull hturns

/-! ### The engine's turn -/

/-- Settles O6. -/
theorem stepRunsTheDecodedCommand : Obligations.StepRunsTheDecodedCommand := by
  intro s v rest i htakes hidle hcmdIn hdecode
  rw [step_takes_word htakes hcmdIn]
  simp [takeWord, takeCommand, afterTake, hidle, hdecode]

/-- Settles O9. -/
theorem engineWaitsForAWord : Obligations.EngineWaitsForAWord := by
  rintro s ⟨hturn, hrst, hemitting⟩ hcmdIn
  rw [step_engine hturn]
  simp [engineMove, hrst, hemitting, hcmdIn]

end Sys2Proof.Machine
end

section
/-!
The statements of 40_add.md about PLACE, bit by bit (R105, R113 to R115).
-/
namespace Sys2Proof.Machine

/-! ### PLACE, bit by bit -/

/-- An XOR into one word of the accumulator, as the logical vector sees it (10_state.md R21). -/
theorem logical_xorWord_bit (W : Words) (v : AccWord) {k q : Nat} (hk : k < 3) (hq : q < 160) :
    (logical (xorWord k v W)).getLsbD q = ((logical W).getLsbD q ^^ (decide (q / 64 = k) && v.getLsbD (q % 64))) := by
  rw [logical_bit _ q hq, logical_bit W q hq]
  obtain ⟨hword, hplace⟩ | ⟨hword, hplace⟩ | ⟨hword, hplace⟩ :
      q / 64 = 0 ∧ q % 64 = q ∨ q / 64 = 1 ∧ q % 64 = q - 64 ∨ q / 64 = 2 ∧ q % 64 = q - 128 := by omega
  all_goals
    rw [hword, hplace]
    obtain rfl | rfl | rfl : k = 0 ∨ k = 1 ∨ k = 2 := by omega
  all_goals
    simp
    grind

/-- A bit of a byte shifted up in a 64-bit word. -/
theorem byte_shiftLeft_bit (b : Byte) (n : Nat) {j : Nat} (hj : j < 64) :
    (BitVec.setWidth 64 b <<< n).getLsbD j = (decide (n ≤ j) && b.getLsbD (j - n)) := by
  have hlt : j - n < 64 := by omega
  simp only [BitVec.getLsbD_shiftLeft, BitVec.getLsbD_setWidth, hj, hlt, decide_true, Bool.true_and, ← decide_not,
    Nat.not_lt]

/-- A bit of a byte shifted down in a 64-bit word. -/
theorem byte_shiftRight_bit (b : Byte) (n j : Nat) :
    (BitVec.setWidth 64 b >>> n).getLsbD j = b.getLsbD (n + j) := by
  simp only [BitVec.getLsbD_ushiftRight, BitVec.getLsbD_setWidth, Bool.and_eq_right_iff_imp, decide_eq_true_eq]
  intro hbit
  have := BitVec.lt_of_getLsbD hbit
  omega

/-- XOR with 0 leaves the words as they are. -/
theorem xorWord_of_zero (k : Nat) (W : Words) : xorWord k 0 W = W := by
  unfold xorWord
  split <;> simp

/-- PLACE as two XORs: where the byte fits whole, the spill is 0 (40_add.md R105). -/
theorem place_eq_xorWords (W : Words) (p : Nat) (b : Byte) :
    place W p b = xorWord (nextWord (p / 64)) (BitVec.setWidth 64 b >>> (cellSize (p / 64) - p % 64))
      (xorWord (p / 64) (BitVec.setWidth 64 b <<< (p % 64)) W) := by
  unfold place placeAt
  by_cases hspill : cellSize (p / 64) - 8 < p % 64
  case pos => rw [if_pos hspill]
  case neg =>
    have hzero : BitVec.setWidth 64 b >>> (cellSize (p / 64) - p % 64) = 0 := by
      apply BitVec.eq_of_getLsbD_eq
      intro j _
      have hcell : 8 ≤ cellSize (p / 64) := by unfold cellSize; split <;> decide
      rw [byte_shiftRight_bit, BitVec.getLsbD_of_ge _ _ (by omega)]
      exact BitVec.getLsbD_zero.symm
    rw [if_neg hspill, hzero, xorWord_of_zero]

/-- PLACE flips logical bit `q` by bit (q - p) mod 160 of its byte (40_add.md R113, R114). -/
theorem place_bit (W : Words) {p q : Nat} (b : Byte) (hp : p < 160) (hq : q < 160) :
    (logical (place W p b)).getLsbD q = ((logical W).getLsbD q ^^ b.getLsbD ((q + 160 - p) % 160)) := by
  have hcell := cell_cases hp
  have hplace : q % 64 < 64 := Nat.mod_lt _ (by decide)
  rw [place_eq_xorWords, logical_xorWord_bit _ _ (by omega) hq, logical_xorWord_bit _ _ (by omega) hq,
    byte_shiftLeft_bit b _ hplace, byte_shiftRight_bit, Bool.xor_assoc]
  congr 1
  by_cases hprimary : q / 64 = p / 64 ∧ p % 64 ≤ q % 64
  · obtain ⟨hword, hle⟩ := hprimary
    have hnext : p / 64 ≠ nextWord (p / 64) := by omega
    have hbit : q % 64 - p % 64 = (q + 160 - p) % 160 := by omega
    simp [hword, hle, hbit, hnext]
  · by_cases hspill : q / 64 = nextWord (p / 64)
    · have hword : q / 64 ≠ p / 64 := by omega
      have hbit : cellSize (p / 64) - p % 64 + q % 64 = (q + 160 - p) % 160 := by omega
      simp [hspill, hbit, hspill ▸ hword]
    · have hfar : 8 ≤ (q + 160 - p) % 160 := by
        obtain hword | hword : q / 64 ≠ p / 64 ∨ q / 64 = p / 64 ∧ q % 64 < p % 64 := by omega
        all_goals omega
      simp [hspill, BitVec.getLsbD_of_ge _ _ hfar]
      omega

/-- Settles O20. -/
theorem placeXorsEachBitOfItsByte : Obligations.PlaceXorsEachBitOfItsByte :=
  fun W _ _ b hp hq => place_bit W b hp hq

/-- Two accumulators whose logical vectors agree at every position have one logical vector. -/
theorem logical_eq_of_bits {W V : Words} (h : ∀ q, q < 160 → (logical W).getLsbD q = (logical V).getLsbD q) :
    logical W = logical V :=
  BitVec.eq_of_getLsbD_eq h

/-- Settles O21: bit by bit, the three identities are those of XOR. -/
theorem placeIsLinearAndCommutes : Obligations.PlaceIsLinearAndCommutes := by
  intro W p q a b hp hq
  refine ⟨?linear, ?zero, ?comm⟩ <;> apply logical_eq_of_bits <;> intro r hr
  case linear => rw [place_bit _ _ hp hr, place_bit _ _ hp hr, place_bit _ _ hp hr, BitVec.getLsbD_xor, Bool.xor_assoc]
  case zero => simp [place_bit _ _ hp hr]
  case comm =>
    rw [place_bit _ _ hq hr, place_bit _ _ hp hr, place_bit _ _ hp hr, place_bit _ _ hq hr, Bool.xor_right_comm]

end Sys2Proof.Machine
end

section
/-!
A whole ADD as the XOR of all its bytes at their positions: fold, loop bound, placement and advance (40_add.md R101 to R106,
R122).
-/
namespace Sys2Proof.Machine

/-! ### The fold -/

/-- One more byte at the end joins the fold of the iteration that its index is congruent to (40_add.md R103). -/
theorem foldFrom_snoc (d : List Byte) (b : Byte) {skip : Nat} (hskip : skip < 160) :
    foldFrom (d ++ [b]) skip = foldFrom d skip ^^^ (if d.length % 160 = skip then b else 0) := by
  induction d generalizing skip with
  | nil =>
    cases skip with
    | zero => simp [foldFrom]
    | succ skip => simp [foldFrom]
  | cons x d ih =>
    cases skip with
    | zero =>
      have hcond : d.length % 160 = 159 ↔ (d.length + 1) % 160 = 0 := by omega
      simp [foldFrom, ih, hcond, BitVec.xor_assoc]
    | succ skip =>
      have hcond : d.length % 160 = skip ↔ (d.length + 1) % 160 = skip + 1 := by omega
      simp [foldFrom, ih (Nat.lt_of_succ_lt hskip), hcond]

/-- An iteration past the last byte would place 0 (40_add.md R101, R103). -/
theorem foldByte_of_length_le {d : List Byte} {i : Nat} (h : d.length ≤ i) : foldByte d i = 0 := by
  unfold foldByte
  induction d generalizing i with
  | nil => rfl
  | cons x d ih =>
    cases i with
    | zero => cases h
    | succ i => exact ih (Nat.le_of_succ_le_succ h)

/-! ### XOR of a range of bits -/

/-- f 0 XOR … XOR f (n - 1). -/
def xorUpTo (f : Nat → Bool) : Nat → Bool
  | 0 => false
  | n + 1 => xorUpTo f n ^^ f n

theorem xorUpTo_of_false {f : Nat → Bool} {m n : Nat} (hmn : m ≤ n) (h : ∀ i, m ≤ i → i < n → f i = false) :
    xorUpTo f n = xorUpTo f m := by
  induction n, hmn using Nat.le_induction with
  | base => rfl
  | succ n hn ih =>
    rw [xorUpTo, ih fun i hi hlt => h i hi (Nat.lt_succ_of_lt hlt), h n hn (Nat.lt_succ_self n), Bool.xor_false]

theorem xorUpTo_xor {f g h : Nat → Bool} {n : Nat} (hfg : ∀ i, i < n → f i = (g i ^^ h i)) :
    xorUpTo f n = (xorUpTo g n ^^ xorUpTo h n) := by
  induction n with
  | zero => rfl
  | succ n ih =>
    have hbelow := ih fun i hi => hfg i (Nat.lt_succ_of_lt hi)
    rw [xorUpTo, xorUpTo, xorUpTo, hbelow, hfg n (Nat.lt_succ_self n), Bool.xor_assoc, Bool.xor_left_comm (xorUpTo h n),
      Bool.xor_assoc]

/-- A range with one bit that may be set is that bit. -/
theorem xorUpTo_single (v : Nat → Bool) {j n : Nat} (hj : j < n) :
    xorUpTo (fun i => decide (j = i) && v i) n = v j := by
  have hbelow : xorUpTo (fun i => decide (j = i) && v i) j = false :=
    xorUpTo_of_false (Nat.zero_le j) fun i _ hi => by simp [Nat.ne_of_gt hi]
  have habove : xorUpTo (fun i => decide (j = i) && v i) n = xorUpTo (fun i => decide (j = i) && v i) (j + 1) :=
    xorUpTo_of_false hj fun i hi _ => by simp [Nat.ne_of_lt hi]
  simp [habove, xorUpTo, hbelow]

/-! ### What a byte brings to a position -/

/-- The bit that byte `b` at index `k` of an ADD from cursor `c` brings to position `p` is bit (p - (c + 11 k)) mod 160 of it
(40_add.md R122). -/
theorem byteAtBit_eq (c : Nat) {p : Nat} (b : Byte) (k : Nat) (hp : p < 160) :
    byteAtBit c p b k = b.getLsbD ((p + 160 - (c + 11 * k) % 160) % 160) := by
  rw [Bool.eq_iff_iff]
  simp only [byteAtBit, List.any_eq_true, List.mem_range, Bool.and_eq_true, decide_eq_true_eq]
  constructor
  · rintro ⟨t, ht, hpos, hbit⟩
    have hplace : (p + 160 - (c + 11 * k) % 160) % 160 = t := by omega
    rwa [hplace]
  · intro hbit
    have ht := BitVec.lt_of_getLsbD hbit
    exact ⟨_, ht, by omega, hbit⟩

/-- Indices 160 apart have one position (40_add.md R123). -/
theorem byteAtBit_mod (c p : Nat) (b : Byte) (k : Nat) : byteAtBit c p b (k % 160) = byteAtBit c p b k := by
  have hpos (t : Nat) : (c + 11 * (k % 160) + t) % 160 = (c + 11 * k + t) % 160 := by omega
  simp only [byteAtBit, hpos]

theorem byteAtBit_xor (c : Nat) {p : Nat} (a b : Byte) (k : Nat) (hp : p < 160) :
    byteAtBit c p (a ^^^ b) k = (byteAtBit c p a k ^^ byteAtBit c p b k) := by
  simp only [byteAtBit_eq _ _ _ hp, BitVec.getLsbD_xor]

theorem byteAtBit_zero (c p k : Nat) : byteAtBit c p 0 k = false := by
  simp [byteAtBit]

/-- One byte more brings its own bit. -/
theorem bytesAtBit_snoc (c p : Nat) (d : List Byte) (b : Byte) :
    bytesAtBit c p (d ++ [b]) = (bytesAtBit c p d ^^ byteAtBit c p b d.length) := by
  simp [bytesAtBit, List.zipIdx_append, List.foldl_append]

/-! ### The loop, bit by bit -/

/-- An iteration places its folded byte at the position of its pair (40_add.md R105, R114). -/
theorem placeIter_words {q : Placer} {p : Nat} (hq : q.PairAt p) (d : List Byte) (i : Nat) :
    (placeIter d q i).words = place q.words p (foldByte d i) := by
  obtain ⟨hwi, hbo⟩ := hq
  rw [place, ← hwi, ← hbo, placeIter]
  split <;> rfl

/-- Each iteration brings what its folded byte at its index would bring. -/
theorem placeLoop_bit (d : List Byte) {c : BitVec 8} (W : Words) {p : Nat} (hc : c.toNat < 160) (hp : p < 160) (k : Nat) :
    (logical (placeLoop d c W k).words).getLsbD p =
      ((logical W).getLsbD p ^^ xorUpTo (fun i => byteAtBit c.toNat p (foldByte d i) i) k) := by
  induction k with
  | zero => simp [xorUpTo, startPlacer]
  | succ k ih =>
    have hpos : (c.toNat + 11 * k) % 160 < 160 := Nat.mod_lt _ (by decide)
    rw [placeLoop_succ, placeIter_words (placeLoop_pairAt d W k hc), place_bit _ _ hpos hp, ih, xorUpTo,
      byteAtBit_eq _ _ _ hp, Bool.xor_assoc]

/-- The loop's bound cuts off only iterations that would place 0 (40_add.md R101). -/
theorem addWords_bit (d : List Byte) {c : BitVec 8} (W : Words) {p : Nat} (hc : c.toNat < 160) (hp : p < 160) :
    (logical (addWords d c W)).getLsbD p =
      ((logical W).getLsbD p ^^ xorUpTo (fun i => byteAtBit c.toNat p (foldByte d i) i) 160) := by
  have hcut : xorUpTo (fun i => byteAtBit c.toNat p (foldByte d i) i) (min d.length 160) =
      xorUpTo (fun i => byteAtBit c.toNat p (foldByte d i) i) 160 := by
    obtain hlong | hshort : 160 ≤ d.length ∨ d.length ≤ 160 := Nat.le_total _ _
    · rw [Nat.min_eq_right hlong]
    · rw [Nat.min_eq_left hshort]
      exact (xorUpTo_of_false hshort fun i hi _ => by rw [foldByte_of_length_le hi, byteAtBit_zero]).symm
  rw [addWords, placeLoop_bit d W hc hp, Config.widthBits, hcut]

/-- One byte more at the end of an ADD XORs that byte in at its position, whatever fold it joins (40_add.md R103, R122). -/
theorem addWords_snoc_bit (d : List Byte) (b : Byte) {c : BitVec 8} (W : Words) {p : Nat} (hc : c.toNat < 160)
    (hp : p < 160) :
    (logical (addWords (d ++ [b]) c W)).getLsbD p =
      ((logical (addWords d c W)).getLsbD p ^^ byteAtBit c.toNat p b d.length) := by
  have hfold (i : Nat) (hi : i < 160) : byteAtBit c.toNat p (foldByte (d ++ [b]) i) i =
      (byteAtBit c.toNat p (foldByte d i) i ^^ (decide (d.length % 160 = i) && byteAtBit c.toNat p b i)) := by
    rw [foldByte, foldFrom_snoc d b hi, byteAtBit_xor _ _ _ _ hp, ← foldByte]
    by_cases hindex : d.length % 160 = i
    · rw [if_pos hindex, decide_eq_true hindex, Bool.true_and]
    · rw [if_neg hindex, decide_eq_false hindex, Bool.false_and, byteAtBit_zero]
  rw [addWords_bit _ W hc hp, addWords_bit d W hc hp, xorUpTo_xor hfold, xorUpTo_single _ (Nat.mod_lt _ (by decide)),
    byteAtBit_mod, Bool.xor_assoc]

/-- Settles O23, by induction on the bytes from the end: each byte brings its bit at its position. -/
theorem addXorsEveryByteAtItsPosition : Obligations.AddXorsEveryByteAtItsPosition := by
  intro d s p hc hp
  rw [addBytes_words]
  induction d using List.reverseRecOn with
  | nil => simp [addWords_nil, bytesAtBit]
  | append_singleton d b ih =>
    rw [addWords_snoc_bit d b _ hc hp, ih, bytesAtBit_snoc, Bool.xor_assoc]

/-! ### One byte more -/

/-- One byte more at the end of an ADD is one more PLACE, at the cursor that the ADD of the others would leave. -/
theorem logical_addWords_snoc (d : List Byte) (b : Byte) {c : BitVec 8} (W : Words) (hc : c.toNat < 160) :
    logical (addWords (d ++ [b]) c W) = logical (place (addWords d c W) (advanceCursor c d.length).toNat b) := by
  have hpos : (advanceCursor c d.length).toNat = (c.toNat + 11 * d.length) % 160 := by
    rw [advanceCursor_toNat]; omega
  apply logical_eq_of_bits
  intro p hp
  rw [addWords_snoc_bit d b W hc hp, hpos, place_bit _ _ (Nat.mod_lt _ (by decide)) hp, byteAtBit_eq _ _ _ hp]

theorem advanceCursor_succ (c : BitVec 8) (n : Nat) :
    advanceCursor c (n + 1) = BitVec.ofNat 8 (((advanceCursor c n).toNat + 11) % 160) := by
  apply BitVec.eq_of_toNat_eq
  rw [BitVec.toNat_ofNat, advanceCursor_toNat, advanceCursor_toNat]
  omega

/-- The exact sum passes the range with the last byte, or passed it before: then the last byte finds a wrapped count. -/
theorem countWraps_succ (total : BitVec 64) (n : Nat) :
    countWraps total (n + 1) =
      (countWraps total n || decide (2 ^ 64 ≤ (total + BitVec.ofNat 64 n).toNat + 1)) := by
  rw [Bool.eq_iff_iff]
  simp only [countWraps, BitVec.toNat_add, BitVec.toNat_ofNat, Bool.or_eq_true, decide_eq_true_eq]
  omega

end Sys2Proof.Machine
end

section
/-!
ADDs compared in all that can be observed (10_state.md R22): the byte-serial form (40_add.md R120), chunking (R121), cancelling
windows (R123), the full window (R124) and the order (R111).
-/
namespace Sys2Proof.Machine

/-! ### Words that differ in unobserved bits alone -/

/-- Equal logical vectors: equal words but for the upper half of W[2] (10_state.md R21, R22). -/
theorem logical_eq_iff {W V : Words} :
    logical W = logical V ↔ W.w0 = V.w0 ∧ W.w1 = V.w1 ∧ W.w2.setWidth 32 = V.w2.setWidth 32 := by
  constructor
  · intro h
    have hslice (k len : Nat) : (logical W).extractLsb' k len = (logical V).extractLsb' k len := by rw [h]
    have h0 := hslice 0 64
    have h1 := hslice 64 64
    have h2 := hslice 128 32
    rw [logical_slice_w0 _ (by decide), logical_slice_w0 _ (by decide)] at h0
    rw [logical_slice_w1 _ (by decide) (by decide), logical_slice_w1 _ (by decide) (by decide)] at h1
    rw [logical_slice_w2 _ (by decide) (by decide), logical_slice_w2 _ (by decide) (by decide)] at h2
    simp only [Nat.sub_self, BitVec.extractLsb'_eq_self] at h0 h1 h2
    refine ⟨h0, h1, ?_⟩
    rwa [BitVec.setWidth_eq_extractLsb' (by decide), BitVec.setWidth_eq_extractLsb' (by decide)]
  · rintro ⟨h0, h1, h2⟩
    rw [logical, logical, h0, h1, h2]

theorem logical_xorWord_congr {W V : Words} (k : Nat) (v : AccWord) (h : logical W = logical V) :
    logical (xorWord k v W) = logical (xorWord k v V) := by
  rw [logical_eq_iff] at h ⊢
  obtain ⟨h0, h1, h2⟩ := h
  unfold xorWord
  split <;> simp [h0, h1, h2, BitVec.setWidth_xor]

/-- A placement sees nothing of the unobserved bits (40_add.md R105). -/
theorem logical_placeAt_congr {W V : Words} (wi bo : Nat) (x : Byte) (h : logical W = logical V) :
    logical (placeAt wi bo x W) = logical (placeAt wi bo x V) := by
  unfold placeAt
  have hprimary := logical_xorWord_congr wi (BitVec.setWidth 64 x <<< bo) h
  split
  · exact logical_xorWord_congr _ _ hprimary
  · exact hprimary

/-- Neither does the loop: its pair moves by itself, and its words stay equal in all that can be observed. -/
theorem placeLoop_congr (d : List Byte) (c : BitVec 8) {W V : Words} (h : logical W = logical V) (k : Nat) :
    (placeLoop d c W k).wi = (placeLoop d c V k).wi ∧ (placeLoop d c W k).bo = (placeLoop d c V k).bo ∧
      logical (placeLoop d c W k).words = logical (placeLoop d c V k).words := by
  induction k with
  | zero => exact ⟨rfl, rfl, h⟩
  | succ k ih =>
    obtain ⟨hwi, hbo, hwords⟩ := ih
    have hplaced := logical_placeAt_congr (placeLoop d c V k).wi (placeLoop d c V k).bo (foldByte d k) hwords
    rw [placeLoop_succ, placeLoop_succ, placeIter, placeIter, hwi, hbo]
    split <;> exact ⟨rfl, rfl, hplaced⟩

theorem logical_addWords_congr (d : List Byte) (c : BitVec 8) {W V : Words} (h : logical W = logical V) :
    logical (addWords d c W) = logical (addWords d c V) :=
  (placeLoop_congr d c h _).2.2

/-! ### States that differ in unobserved bits alone -/

/-- One of the states is the other with words of the same logical vector. -/
theorem sameButUnobserved_iff {s t : State} :
    SameButUnobserved s t ↔ logical s.words = logical t.words ∧ t = { s with words := t.words } := by
  refine and_congr_right fun _ => ⟨fun h => ?_, fun h => ?_⟩
  · have hset : ({ { t with words := Words.zero } with words := t.words } : State) = { s with words := t.words } := by
      rw [← h]
    exact hset
  · rw [h]

theorem sameButUnobserved_refl (s : State) : SameButUnobserved s s := ⟨rfl, rfl⟩

theorem sameButUnobserved_trans {s t u : State} (hst : SameButUnobserved s t) (htu : SameButUnobserved t u) :
    SameButUnobserved s u :=
  ⟨hst.1.trans htu.1, hst.2.trans htu.2⟩

theorem sameButUnobserved_symm {s t : State} (h : SameButUnobserved s t) : SameButUnobserved t s :=
  ⟨h.1.symm, h.2.symm⟩

/-- An ADD leaves states that differ in unobserved bits alone that way. -/
theorem addBytes_congr (d : List Byte) {s t : State} (h : SameButUnobserved s t) :
    SameButUnobserved (addBytes d s) (addBytes d t) := by
  obtain ⟨hwords, ht⟩ := sameButUnobserved_iff.mp h
  rw [ht] at hwords ⊢
  refine sameButUnobserved_iff.mpr ⟨?words, ?rest⟩
  case words => simpa using logical_addWords_congr d s.cursor hwords
  case rest => ext1 <;> simp

theorem serialByte_congr (b : Byte) {s t : State} (h : SameButUnobserved s t) :
    SameButUnobserved (serialByte s b) (serialByte t b) := by
  obtain ⟨hwords, ht⟩ := sameButUnobserved_iff.mp h
  rw [ht] at hwords ⊢
  exact sameButUnobserved_iff.mpr ⟨logical_placeAt_congr _ _ b hwords, rfl⟩

theorem foldl_serialByte_congr (d : List Byte) {s t : State} (h : SameButUnobserved s t) :
    SameButUnobserved (d.foldl serialByte s) (d.foldl serialByte t) := by
  induction d generalizing s t with
  | nil => exact h
  | cons b d ih => exact ih (serialByte_congr b h)

/-- The digest reads the logical vector and the count, nothing else (41_digest.md R141, R142). -/
theorem digestBytes_congr {s t : State} (h : SameButUnobserved s t) : digestBytes s = digestBytes t := by
  have htotal : s.total = t.total := by rw [(sameButUnobserved_iff.mp h).2]
  rw [digestBytes_eq_slices, digestBytes_eq_slices, digestNumber, digestNumber, h.1, htotal]

/-! ### The byte-serial form -/

/-- One byte more at the end of an ADD is one byte more of the byte-serial form (40_add.md R120). -/
theorem addBytes_snoc (d : List Byte) (b : Byte) {s : State} (hc : s.cursor.toNat < 160) :
    SameButUnobserved (addBytes (d ++ [b]) s) (serialByte (addBytes d s) b) := by
  refine sameButUnobserved_iff.mpr ⟨?words, ?rest⟩
  case words => simpa [serialByte] using logical_addWords_snoc d b s.words hc
  case rest =>
    have htotal : s.total + BitVec.ofNat 64 d.length + 1 = s.total + BitVec.ofNat 64 (d.length + 1) := by
      rw [BitVec.add_assoc, BitVec.ofNat_add]
      rfl
    ext1 <;> simp [serialByte, advanceCursor_succ, countWraps_succ, ← htotal, Bool.or_assoc]

/-- Settles O24, by induction on the bytes from the end. -/
theorem addEqualsByteSerialForm : Obligations.AddEqualsByteSerialForm := by
  intro d s hc
  induction d using List.reverseRecOn with
  | nil => rw [addBytes_nil hc]; exact sameButUnobserved_refl s
  | append_singleton d b ih =>
    rw [List.foldl_append]
    exact sameButUnobserved_trans (addBytes_snoc d b hc) (serialByte_congr b ih)

/-! ### Chunking -/

theorem addBytes_cursor_lt (d : List Byte) (s : State) : (addBytes d s).cursor.toNat < 160 := by
  rw [addBytes_cursor, advanceCursor_toNat]
  exact Nat.mod_lt _ (by decide)

/-- Two ADDs in a row are the ADD of their bytes in a row: both are the byte-serial form (40_add.md R121). -/
theorem addBytes_append (d e : List Byte) {s : State} (hc : s.cursor.toNat < 160) :
    SameButUnobserved (addBytes e (addBytes d s)) (addBytes (d ++ e) s) := by
  have hwhole := addEqualsByteSerialForm (d ++ e) s hc
  rw [List.foldl_append] at hwhole
  have hsecond := addEqualsByteSerialForm e (addBytes d s) (addBytes_cursor_lt d s)
  have hfirst := foldl_serialByte_congr e (addEqualsByteSerialForm d s hc)
  exact sameButUnobserved_trans (sameButUnobserved_trans hsecond hfirst) (sameButUnobserved_symm hwhole)

/-- ADDs of consecutive pieces, in all that can be observed, by induction on the pieces. -/
theorem foldl_addBytes_flatten (pieces : List (List Byte)) {s : State} (hc : s.cursor.toNat < 160) :
    SameButUnobserved (pieces.foldl (fun t c => addBytes c t) s) (addBytes pieces.flatten s) := by
  induction pieces generalizing s with
  | nil => rw [List.flatten_nil, addBytes_nil hc]; exact sameButUnobserved_refl s
  | cons c pieces ih =>
    rw [List.foldl_cons, List.flatten_cons]
    exact sameButUnobserved_trans (ih (addBytes_cursor_lt c s)) (addBytes_append c pieces.flatten hc)

/-- Settles O25. -/
theorem addIsChunkingInvariant : Obligations.AddIsChunkingInvariant := fun pieces _ hc =>
  ⟨foldl_addBytes_flatten pieces hc, digestBytes_congr (foldl_addBytes_flatten pieces hc)⟩

/-! ### Whole windows -/

/-- Whole windows leave the cursor where it is, if it is a position (40_add.md R123). -/
theorem advanceCursor_of_windows {c : BitVec 8} {n : Nat} (hc : c.toNat < 160) (hn : n % 160 = 0) :
    advanceCursor c n = c := by
  apply BitVec.eq_of_toNat_eq
  rw [advanceCursor_toNat]
  omega

/-- Whole windows added a second time start at the same cursor and so XOR the same bits in again. -/
theorem logical_addBytes_windows_twice {d : List Byte} {s : State} (hd : d.length % 160 = 0) (hc : s.cursor.toNat < 160) :
    logical (addBytes (d ++ d) s).words = logical s.words := by
  have hcursor : (addBytes d s).cursor = s.cursor := (addBytes_cursor d s).trans (advanceCursor_of_windows hc hd)
  obtain ⟨htwice, -⟩ := addBytes_append d d hc
  rw [← htwice]
  apply logical_eq_of_bits
  intro p hp
  rw [addXorsEveryByteAtItsPosition d _ p (addBytes_cursor_lt d s) hp, hcursor,
    addXorsEveryByteAtItsPosition d s p hc hp, Bool.xor_assoc, Bool.xor_self, Bool.xor_false]

/-- Settles O26. -/
theorem repeatedWindowsCancel : Obligations.RepeatedWindowsCancel := by
  intro d s hd hc
  have hlength : (d ++ d).length = 2 * d.length := by rw [List.length_append, Nat.two_mul]
  refine ⟨logical_addBytes_windows_twice hd hc, ?cursor, ?total⟩
  case cursor => exact (addBytes_cursor _ s).trans (advanceCursor_of_windows hc (by omega))
  case total => rw [(addCountsItsBytes (d ++ d) s).1, hlength]

/-- The position of an iteration, from the loop's pair (40_add.md R112). -/
theorem placeLoop_position (d : List Byte) {c : BitVec 8} (W : Words) (i : Nat) (hc : c.toNat < 160) :
    (placeLoop d c W i).wi * 64 + (placeLoop d c W i).bo = (c.toNat + 11 * i) % 160 := by
  obtain ⟨hwi, hbo⟩ := placeLoop_pairAt d W i hc
  omega

/-- Settles O27: 11 and 131 are inverse modulo 160, so iteration 131 (p - c) mod 160 is the one at position p. -/
theorem fullWindowCoversEveryPosition : Obligations.FullWindowCoversEveryPosition := by
  intro d s hd hc position
  have hposition (i : Nat) : position i = (s.cursor.toNat + 11 * i) % 160 := placeLoop_position d s.words i hc
  simp only [hposition, hd]
  refine ⟨fun p hp => ?once, fun hzero p hp => ?inverse, ?cursor⟩
  case once =>
    refine ⟨131 * (p + 160 - s.cursor.toNat) % 160, Nat.mod_lt _ (by decide), by omega, fun j hj hpos => by omega⟩
  case inverse =>
    have hstart : s.cursor.toNat = 0 := by rw [hzero]; rfl
    omega
  case cursor => exact (addBytes_cursor d s).trans (advanceCursor_of_windows hc (by omega))

/-- Settles O28: the bytes 1 and 2, added to the empty state in both orders. -/
theorem addIsNotCommutative : Obligations.AddIsNotCommutative :=
  ⟨[1], [2], by decide⟩

/-! ### The ADD command word -/

/-- Settles O19. -/
theorem addWritesNothingElse : Obligations.AddWritesNothingElse := by
  intro d s
  ext1 <;> simp

/-- Settles O15. -/
theorem addOpensItsPayload : Obligations.AddOpensItsPayload := by
  intro n s hn
  rw [exec_eq]
  exact congrArg _ (if_neg (Nat.ne_of_gt hn))

end Sys2Proof.Machine
end

section
/-!
The payload of an ADD on the command port: bytes in lanes (20_memory.md R54), one payload word (30_encoding.md R86) and the whole
command (R86, R87).
-/
namespace Sys2Proof.Machine

/-! ### Lanes -/

/-- A lane as a number (20_memory.md R54). -/
theorem lane_toNat (v : PortWord) (L : Nat) : (lane v L).toNat = v.toNat / 2 ^ (8 * L) % 256 := by
  rw [lane, BitVec.extractLsb'_toNat, Nat.shiftRight_eq_div_pow]

theorem lanes_length (v : PortWord) : (lanes v).length = 4 := rfl

/-- The four lanes are the four base-256 digits of the word. -/
theorem lanes_eq_digits (v : PortWord) : lanes v = (List.range 4).map fun L => BitVec.ofNat 8 (v.toNat / 256 ^ L) := by
  have hlane (L : Nat) : lane v L = BitVec.ofNat 8 (v.toNat / 256 ^ L) := by
    apply BitVec.eq_of_toNat_eq
    rw [lane_toNat, Nat.pow_mul, BitVec.toNat_ofNat]
  simp only [← hlane]
  rfl

/-- Packing and unpacking one word (20_memory.md R54). -/
theorem lanes_packLanes (b0 b1 b2 b3 : Byte) : lanes (packLanes b0 b1 b2 b3) = [b0, b1, b2, b3] := by
  have hlane (L : Nat) (b : Byte) (h : (packLanes b0 b1 b2 b3).toNat / 2 ^ (8 * L) % 256 = b.toNat) :
      lane (packLanes b0 b1 b2 b3) L = b :=
    BitVec.eq_of_toNat_eq ((lane_toNat _ L).trans h)
  have hword := packLanes_toNat b0 b1 b2 b3
  rw [lanes, hlane 0 b0 (by omega), hlane 1 b1 (by omega),
    hlane 2 b2 (by omega), hlane 3 b3 (by omega)]

/-- Byte `k` of unpacked words is lane k mod 4 of word k / 4. -/
theorem flatMap_lanes_getD (ws : List PortWord) (k : Nat) :
    (ws.flatMap lanes).getD k 0 = lane (ws.getD (k / 4) 0) (k % 4) := by
  induction ws generalizing k with
  | nil =>
    have hzero : lane 0 (k % 4) = 0 := BitVec.extractLsb'_zero
    exact hzero.symm
  | cons w ws ih =>
    rw [List.flatMap_cons]
    obtain hfirst | hlater : k < 4 ∨ 4 ≤ k := Nat.lt_or_ge k 4
    · obtain rfl | rfl | rfl | rfl : k = 0 ∨ k = 1 ∨ k = 2 ∨ k = 3 := by omega
      all_goals rfl
    · have hword : k / 4 = (k - 4) / 4 + 1 := by omega
      have hlane : k % 4 = (k - 4) % 4 := by omega
      rw [List.getD_append_right _ _ _ _ hlater, lanes_length, ih, hword, hlane, List.getD_cons_succ]

/-! ### Packing a byte sequence -/

theorem packWords_length (d : List Byte) : (packWords d).length = (d.length + 3) / 4 := by
  induction d using packWords.induct with
  | case1 b0 b1 b2 b3 rest ih =>
    simp only [packWords, List.length_cons, ih]
    omega
  | case2 | case3 | case4 | case5 => simp [packWords]

/-- Unpacking gives the sequence back; the padding lanes come after it (20_memory.md R54). -/
theorem flatMap_lanes_packWords (d : List Byte) : ((packWords d).flatMap lanes).take d.length = d := by
  induction d using packWords.induct with
  | case1 b0 b1 b2 b3 rest ih => simp [packWords, lanes_packLanes, ih]
  | case2 | case3 | case4 | case5 => simp [packWords, lanes_packLanes]

/-- Settles O13: the bytes lie in their lanes because unpacking gives them back. -/
theorem packedBytesLieInTheirLanes : Obligations.PackedBytesLieInTheirLanes := by
  intro d
  refine ⟨packWords_length d, fun k hk => ?_, flatMap_lanes_packWords d⟩
  rw [← flatMap_lanes_getD]
  conv_rhs => rw [← flatMap_lanes_packWords d]
  rw [List.getD_eq_getElem?_getD, List.getD_eq_getElem?_getD, List.getElem?_take_of_lt hk]

/-! ### One payload word -/

/-- A word taken in PAYLOAD is payload (30_encoding.md R86). -/
theorem step_payload {s : State} {n : Nat} {buf : List Byte} {v : PortWord} {rest : List PortWord}
    (htakes : TakesWord s) (hphase : s.phase = .payload n buf) (hcmdIn : s.cmdIn = v :: rest) :
    step s = .next (takePayload n buf v (afterTake s rest)) := by
  rw [step_takes_word htakes hcmdIn]
  simp [takeWord, afterTake, hphase]

/-- With more than four bytes missing, all four lanes are payload. -/
theorem appendPayload_of_more {n : Nat} {buf : List Byte} (v : PortWord) (h : buf.length + 4 < n) :
    appendPayload n buf v = buf ++ lanes v := by
  rw [appendPayload, List.take_of_length_le (by rw [lanes_length]; omega)]

/-- With at most four bytes missing, the word completes the payload. -/
theorem appendPayload_length_of_last {n : Nat} {buf : List Byte} (v : PortWord) (hmissing : buf.length < n)
    (h : n ≤ buf.length + 4) : (appendPayload n buf v).length = n := by
  rw [appendPayload, List.length_append, List.length_take, lanes_length]
  omega

theorem step_payload_of_more {s : State} {n : Nat} {buf : List Byte} {v : PortWord} {rest : List PortWord}
    (htakes : TakesWord s) (hphase : s.phase = .payload n buf) (hcmdIn : s.cmdIn = v :: rest) (h : buf.length + 4 < n) :
    step s = .next { s with cmdIn := rest, turns := s.turns.tail, phase := .payload n (buf ++ lanes v) } := by
  have hlength : (buf ++ lanes v).length ≠ n := by rw [List.length_append, lanes_length]; omega
  rw [step_payload htakes hphase hcmdIn, takePayload, appendPayload_of_more v h, if_neg hlength]
  rfl

theorem step_payload_of_last {s : State} {n : Nat} {buf : List Byte} {v : PortWord} {rest : List PortWord}
    (htakes : TakesWord s) (hphase : s.phase = .payload n buf) (hcmdIn : s.cmdIn = v :: rest)
    (hmissing : buf.length < n) (h : n ≤ buf.length + 4) :
    step s = .next { addBytes (buf ++ (lanes v).take (n - buf.length)) { s with cmdIn := rest, turns := s.turns.tail } with
      phase := .idle } := by
  rw [step_payload htakes hphase hcmdIn, takePayload, if_pos (appendPayload_length_of_last v hmissing h)]
  rfl

/-- Settles O12. -/
theorem payloadWordExtendsOrCompletesTheAdd : Obligations.PayloadWordExtendsOrCompletesTheAdd := by
  intro s n buf v rest htakes hphase hmissing hcmdIn bytes
  have hbytes : bytes = lanes v := (lanes_eq_digits v).symm
  rw [hbytes]
  exact ⟨step_payload_of_more htakes hphase hcmdIn, step_payload_of_last htakes hphase hcmdIn hmissing⟩

/-! ### The whole command -/

/-- The payload words of an ADD, one after the other: as many steps as words, and the ADD executes in the last
(30_encoding.md R86). -/
theorem machineRun_payload (ws : List PortWord) (s : State) {n : Nat} {buf : List Byte} {rest : List PortWord}
    (hturns : s.turns = []) (hrst : s.rst = false) (hemitting : s.emitting = []) (hphase : s.phase = .payload n buf)
    (hcmdIn : s.cmdIn = ws ++ rest) (hmissing : buf.length < n) (hws : ws.length = (n - buf.length + 3) / 4) :
    machineRun ws.length s = .next { addBytes (buf ++ (ws.flatMap lanes).take (n - buf.length)) { s with cmdIn := rest } with
      phase := .idle } := by
  induction ws generalizing s buf with
  | nil => rw [List.length_nil] at hws; omega
  | cons v ws ih =>
    have htakes : TakesWord s := ⟨by rw [engineTurn, hturns], hrst, hemitting⟩
    have hfront : s.cmdIn = v :: (ws ++ rest) := hcmdIn
    rw [List.length_cons] at hws ⊢
    obtain hlast | hmore : n ≤ buf.length + 4 ∨ buf.length + 4 < n := le_or_gt _ _
    · obtain rfl : ws = [] := List.length_eq_zero_iff.mp (by omega)
      rw [machineRun_succ (step_payload_of_last htakes hphase hfront hmissing hlast)]
      simp [hturns]
    · rw [machineRun_succ (step_payload_of_more htakes hphase hfront hmore)]
      have hmissing' : n - (buf ++ lanes v).length = n - buf.length - 4 := by
        rw [List.length_append, lanes_length]; omega
      rw [ih { s with cmdIn := ws ++ rest, turns := s.turns.tail, phase := .payload n (buf ++ lanes v) }
        (by rw [hturns]; rfl) hrst hemitting rfl rfl (by rw [List.length_append, lanes_length]; omega)
        (by rw [hmissing']; omega)]
      have hbytes : (lanes v ++ ws.flatMap lanes).take (n - buf.length) =
          lanes v ++ (ws.flatMap lanes).take (n - buf.length - 4) := by
        rw [List.take_append, lanes_length, List.take_of_length_le (by rw [lanes_length]; omega)]
      rw [hmissing', List.flatMap_cons, hbytes, List.append_assoc]
      refine congrArg _ ?_
      ext1 <;> simp [hturns]

/-- The first step of an ADD command: the word of a positive length opens the payload (30_encoding.md R82, R86). -/
theorem step_encode_add {s : State} {n : Nat} {rest : List PortWord} (htakes : TakesWord s) (hidle : s.phase = .idle)
    (hn : n < 2 ^ 28) (hcmdIn : s.cmdIn = encode (.add n) :: rest) :
    step s = exec (.add n) { s with cmdIn := rest, turns := s.turns.tail } :=
  stepRunsTheDecodedCommand s _ rest _ htakes hidle hcmdIn (decode_encode_add hn)

/-- The whole command: the bytes that its payload words carry are added (30_encoding.md R86, R87). -/
theorem machineRun_add {s : State} {d : List Byte} {ws rest : List PortWord} (hturns : s.turns = []) (hrst : s.rst = false)
    (hemitting : s.emitting = []) (hidle : s.phase = .idle) (hd : d.length < 2 ^ 28)
    (hws : ws.length = (d.length + 3) / 4) (hbytes : (ws.flatMap lanes).take d.length = d)
    (hcmdIn : s.cmdIn = encode (.add d.length) :: (ws ++ rest)) :
    machineRun (1 + ws.length) s = .next (addBytes d { s with cmdIn := rest }) := by
  have htakes : TakesWord s := ⟨by rw [engineTurn, hturns], hrst, hemitting⟩
  have hcommand := step_encode_add htakes hidle hd hcmdIn
  rw [Nat.add_comm]
  obtain hempty | hpos := Nat.eq_zero_or_pos d.length
  · obtain rfl := List.length_eq_zero_iff.mp hempty
    obtain rfl := List.length_eq_zero_iff.mp hws
    rw [exec_eq] at hcommand
    rw [machineRun_succ hcommand]
    simp [hturns]
  · have hopen : step s = .next { s with cmdIn := ws ++ rest, turns := s.turns.tail, phase := .payload d.length [] } :=
      hcommand.trans (addOpensItsPayload d.length _ hpos)
    rw [machineRun_succ hopen, machineRun_payload ws
      { s with cmdIn := ws ++ rest, turns := s.turns.tail, phase := .payload d.length [] }
      (by rw [hturns]; rfl) hrst hemitting rfl rfl hpos hws, List.length_nil, Nat.sub_zero, List.nil_append, hbytes]
    refine congrArg _ ?_
    ext1 <;> simp [hturns, hidle]

/-- Settles O14. -/
theorem addCommandRunsWithItsPayload : Obligations.AddCommandRunsWithItsPayload := by
  intro s d ws rest hturns hrst hemitting hidle hd hws hbytes hcmdIn
  refine ⟨?length, machineRun_add hturns hrst hemitting hidle hd hws hbytes hcmdIn⟩
  rw [commandLength, decode_encode_add hd, hws]
  rfl

end Sys2Proof.Machine
end

section
/-!
The statements of 41_digest.md about the count in the digest (R146) and the decoding of its text (R155), and of 42_control.md
about RESET (R170, R171).
-/
namespace Sys2Proof.Machine

/-! ### The count in the digest -/

/-- Equal digests have equal numbers (41_digest.md R142). -/
theorem digestNumber_eq_of_digestBytes_eq {s t : State} (h : digestBytes s = digestBytes t) :
    digestNumber s = digestNumber t := by
  apply BitVec.eq_of_toNat_eq
  obtain ⟨-, hs, -⟩ := digestBytesAreTheDigestNumber s
  obtain ⟨-, ht, -⟩ := digestBytesAreTheDigestNumber t
  rw [← hs, ← ht, h]

/-- With the words unchanged, the high 64 bits of the digest number give the count back (41_digest.md R142, R146). -/
theorem total_eq_of_digestBytes_eq {s : State} {x : BitVec 64} (h : digestBytes { s with total := x } = digestBytes s) :
    x = s.total := by
  have hhigh := congrArg (BitVec.extractLsb' 96 64) (digestNumber_eq_of_digestBytes_eq h)
  rw [digestNumber_high, digestNumber_high] at hhigh
  exact BitVec.xor_right_inj _ |>.mp hhigh

/-- Settles O32: the first 12 bytes are the words', so with equal last bytes the digests, and the counts, are equal. -/
theorem digestSeesTheCount : Obligations.DigestSeesTheCount := by
  intro s x
  have hfirst : (digestBytes { s with total := x }).take 12 = (digestBytes s).take 12 := rfl
  refine ⟨hfirst, fun hne hlast => hne (total_eq_of_digestBytes_eq ?_)⟩
  rw [← List.take_append_drop 12 (digestBytes { s with total := x }), hfirst, hlast, List.take_append_drop]

/-! ### Decoding the text -/

/-- The decoder reads each character of the alphabet as its index (41_digest.md R152). -/
theorem base64Index_base64Char : ∀ i : BitVec 6, base64Index (base64Char i) = some i := by decide

theorem base64Index_base64Pad : base64Index base64Pad = none := by decide

/-- The four indices of a 24-bit group give its three bytes back (41_digest.md R151). -/
theorem base64Group_indices (b0 b1 b2 : Byte) :
    base64Group ((b0 ++ b1 ++ b2).extractLsb' 18 6) ((b0 ++ b1 ++ b2).extractLsb' 12 6) ((b0 ++ b1 ++ b2).extractLsb' 6 6)
      ((b0 ++ b1 ++ b2).extractLsb' 0 6) = [b0, b1, b2] := by
  have hgroup : (b0 ++ b1 ++ b2).extractLsb' 18 6 ++ (b0 ++ b1 ++ b2).extractLsb' 12 6 ++ (b0 ++ b1 ++ b2).extractLsb' 6 6 ++
      (b0 ++ b1 ++ b2).extractLsb' 0 6 = b0 ++ b1 ++ b2 := by
    rw [BitVec.extractLsb'_append_extractLsb'_eq_extractLsb' (by decide),
      BitVec.extractLsb'_append_extractLsb'_eq_extractLsb' (by decide),
      BitVec.extractLsb'_append_extractLsb'_eq_extractLsb' (by decide), BitVec.extractLsb'_eq_self]
  have hbyte (k : Nat) (b : Byte) (h : (b0 ++ b1 ++ b2).toNat / 2 ^ k % 2 ^ 8 = b.toNat) :
      (b0 ++ b1 ++ b2).extractLsb' k 8 = b := by
    apply BitVec.eq_of_toNat_eq
    rw [BitVec.extractLsb'_toNat, Nat.shiftRight_eq_div_pow, h]
  have hnumber : (b0 ++ b1 ++ b2).toNat = (b0.toNat * 2 ^ 8 + b1.toNat) * 2 ^ 8 + b2.toNat := by
    rw [append_toNat, append_toNat]
  have h0 := b0.isLt
  have h1 := b1.isLt
  have h2 := b2.isLt
  rw [base64Group, hgroup, hbyte 16 b0 (by omega), hbyte 8 b1 (by omega),
    hbyte 0 b2 (by omega)]

/-- An index of a group as a number. -/
theorem index_toNat (b0 b1 b2 : Byte) (k : Nat) :
    ((b0 ++ b1 ++ b2).extractLsb' k 6).toNat = ((b0.toNat * 2 ^ 8 + b1.toNat) * 2 ^ 8 + b2.toNat) / 2 ^ k % 64 := by
  rw [BitVec.extractLsb'_toNat, Nat.shiftRight_eq_div_pow, append_toNat, append_toNat]

theorem index_eq_zero {b0 b1 b2 : Byte} {k : Nat}
    (h : ((b0.toNat * 2 ^ 8 + b1.toNat) * 2 ^ 8 + b2.toNat) / 2 ^ k % 64 = 0) : (b0 ++ b1 ++ b2).extractLsb' k 6 = 0 :=
  BitVec.eq_of_toNat_eq ((index_toNat b0 b1 b2 k).trans h)

/-- A full group of the text. -/
theorem base64Decode_full (b0 b1 b2 : Byte) {text rest : List Byte} (h : base64Decode text = some rest) :
    base64Decode (base64Quad (b0 ++ b1 ++ b2) ++ text) = some (b0 :: b1 :: b2 :: rest) := by
  simp [base64Quad, base64Decode, base64Index_base64Char, h, base64Group_indices]

/-- Two bytes left over: the unused last index and the unused bits of the third are 0 (41_digest.md R151, R154). -/
theorem base64Decode_two_left (b c : Byte) : base64Decode (base64 [b, c]) = some [b, c] := by
  have hzero : (0 : Byte).toNat = 0 := rfl
  have hunused : ((b ++ c ++ (0 : Byte)).extractLsb' 6 6).toNat % 4 = 0 := by rw [index_toNat]; omega
  have hlast : (b ++ c ++ (0 : Byte)).extractLsb' 0 6 = 0 := index_eq_zero (by omega)
  have hgroup := base64Group_indices b c 0
  rw [hlast] at hgroup
  simp only [base64, base64Quad, List.take_succ_cons, List.take_zero, List.cons_append, List.nil_append, base64Decode,
    base64Index_base64Char, base64Index_base64Pad, hgroup, hunused]
  simp [base64Pad]

/-- One byte left over: the unused last two indices and the unused bits of the second are 0 (41_digest.md R151). -/
theorem base64Decode_one_left (b : Byte) : base64Decode (base64 [b]) = some [b] := by
  have hzero : (0 : Byte).toNat = 0 := rfl
  have hunused : ((b ++ (0 : Byte) ++ (0 : Byte)).extractLsb' 12 6).toNat % 16 = 0 := by rw [index_toNat]; omega
  have hthird : (b ++ (0 : Byte) ++ (0 : Byte)).extractLsb' 6 6 = 0 := index_eq_zero (by omega)
  have hlast : (b ++ (0 : Byte) ++ (0 : Byte)).extractLsb' 0 6 = 0 := index_eq_zero (by omega)
  have hgroup := base64Group_indices b 0 0
  rw [hthird, hlast] at hgroup
  simp only [base64, base64Quad, List.take_succ_cons, List.take_zero, List.cons_append, List.nil_append, base64Decode,
    base64Index_base64Char, base64Index_base64Pad, hgroup, hunused]
  simp [base64Pad]

/-- The decoder gives every encoded byte sequence back, by induction on its groups (41_digest.md R155). -/
theorem base64Decode_base64 (B : List Byte) : base64Decode (base64 B) = some B := by
  induction B using base64.induct with
  | case1 b0 b1 b2 rest ih => rw [base64]; exact base64Decode_full b0 b1 b2 ih
  | case2 b c => exact base64Decode_two_left b c
  | case3 b => exact base64Decode_one_left b
  | case4 => rw [base64, base64Decode]

/-- Settles O35. -/
theorem base64RoundTrips : Obligations.Base64RoundTrips :=
  ⟨base64Decode_base64, fun s => base64Decode_base64 (digestBytes s)⟩

/-! ### RESET -/

/-- Settles O37. -/
theorem resetCommandEmptiesTheHash : Obligations.ResetCommandEmptiesTheHash :=
  ⟨by decide, fun s => exec_eq .reset s⟩

/-- Settles O38: a cleared hash is the empty one, and so is the hash after hardware reset. -/
theorem resetCommandGivesAFreshHash : Obligations.ResetCommandGivesAFreshHash := by
  intro s
  have hdigest : digestBytes (clearHash s) = digestBytes State.reset := by
    have hcleared : EmptyHash (clearHash s) := ⟨rfl, rfl, rfl⟩
    have hfresh : EmptyHash State.reset := ⟨rfl, rfl, rfl⟩
    rw [digestBytes_of_empty hcleared, digestBytes_of_empty hfresh]
  exact ⟨_, exec_eq .reset s, rfl, rfl, rfl, hdigest, congrArg base64 hdigest⟩

end Sys2Proof.Machine
end

section
/-!
What a step can do, case by case, and that it always answers a next state (60_exceptions.md R203, R206, R209).
-/
namespace Sys2Proof.Machine

/-! ### The cases of a step -/

/-- The engine takes the word `v` in this step, and `rest` stays on CMD_IN (20_memory.md R51). -/
structure TakesFront (s : State) (v : PortWord) (rest : List PortWord) : Prop where
  turn : engineTurn s = true
  rst : s.rst = false
  emitting : s.emitting = []
  cmdIn : s.cmdIn = v :: rest

/-- What a step can do, one constructor for each of its ways, with the next state written out. -/
inductive StepCase (s : State) : State → Prop
  /-- RST is asserted, or released after an assertion (20_memory.md R53). -/
  | rst (level : Bool) (hturn : rstTurn s = true) :
    StepCase s { hardReset { s with turns := s.turns.tail } with rst := level }
  /-- Nothing happens: the engine is held in reset or has no word, the host finds no response, or it releases an RST that is not
  asserted. -/
  | idle (hturn : rstTurn s = false) : StepCase s { s with turns := s.turns.tail }
  /-- The host delivers a word. -/
  | deliver (v : PortWord) (hturn : rstTurn s = false) :
    StepCase s (hostDeliver v { s with turns := s.turns.tail })
  /-- The host takes a response. -/
  | take {v : PortWord} {q : List PortWord} (hturn : rstTurn s = false) (hrspq : s.rspq = v :: q) :
    StepCase s { s with turns := s.turns.tail, rspq := q, taken := s.taken ++ [v] }
  /-- A command that waits for room goes on emitting. -/
  | drain (hturn : engineTurn s = true) (hrst : s.rst = false) (hemitting : s.emitting ≠ []) :
    StepCase s (drainEmits { s with turns := s.turns.tail })
  /-- RESET. -/
  | reset {v : PortWord} {rest : List PortWord} (htakes : TakesFront s v rest) (hidle : s.phase = .idle)
    (hdecode : decode v = .ok .reset) : StepCase s (clearHash (afterTake s rest))
  /-- An ADD of no bytes. -/
  | emptyAdd {v : PortWord} {rest : List PortWord} (htakes : TakesFront s v rest) (hidle : s.phase = .idle)
    (hdecode : decode v = .ok (.add 0)) : StepCase s (addBytes [] (afterTake s rest))
  /-- The command word of an ADD that has payload. -/
  | openAdd {v : PortWord} {rest : List PortWord} {n : Nat} (htakes : TakesFront s v rest) (hidle : s.phase = .idle)
    (hdecode : decode v = .ok (.add n)) (hn : 0 < n) : StepCase s { afterTake s rest with phase := .payload n [] }
  /-- A reading command. -/
  | read {v : PortWord} {rest : List PortWord} {i : Instr} (htakes : TakesFront s v rest) (hidle : s.phase = .idle)
    (hdecode : decode v = .ok i) (hreader : isReader i = true) :
    StepCase s (emitAll (readerWords i (afterTake s rest)) (afterTake s rest))
  /-- An illegal word. -/
  | illegal {v : PortWord} {rest : List PortWord} {e : Illegal} (htakes : TakesFront s v rest) (hidle : s.phase = .idle)
    (hdecode : decode v = .error e) : StepCase s (raiseError (illegalCause e) (afterTake s rest))
  /-- A payload word after which bytes are still missing. -/
  | payloadMore {v : PortWord} {rest : List PortWord} {n : Nat} {buf : List Byte} (htakes : TakesFront s v rest)
    (hphase : s.phase = .payload n buf) (hlength : (appendPayload n buf v).length ≠ n) :
    StepCase s { afterTake s rest with phase := .payload n (appendPayload n buf v) }
  /-- The last payload word of an ADD. -/
  | payloadLast {v : PortWord} {rest : List PortWord} {n : Nat} {buf : List Byte} (htakes : TakesFront s v rest)
    (hphase : s.phase = .payload n buf) (hlength : (appendPayload n buf v).length = n) :
    StepCase s { addBytes (appendPayload n buf v) (afterTake s rest) with phase := .idle }

/-- What a take can do (20_memory.md R52). -/
theorem hostTake_cases (s : State) :
    (s.rspq = [] ∧ hostTake s = s) ∨
    (∃ v q, s.rspq = v :: q ∧ hostTake s = { s with rspq := q, taken := s.taken ++ [v] }) := by
  cases hrspq : s.rspq with
  | nil => exact .inl ⟨rfl, hostTake_empty hrspq⟩
  | cons v q => exact .inr ⟨v, q, rfl, hostTake_cons hrspq⟩

/-- What a release of RST can do (20_memory.md R53, log 20). -/
theorem hostReleaseRst_cases (s : State) :
    (s.rst = true ∧ hostReleaseRst s = { hardReset s with rst := false }) ∨ (s.rst = false ∧ hostReleaseRst s = s) := by
  cases hrst : s.rst with
  | true => exact .inl ⟨rfl, hostReleaseRst_of_asserted hrst⟩
  | false => exact .inr ⟨rfl, hostReleaseRst_of_released hrst⟩

/-- The engine's turn is no turn of a reset. -/
theorem rstTurn_of_engineTurn {s : State} (h : engineTurn s = true) : rstTurn s = false := by
  unfold engineTurn at h
  split at h <;> simp_all [rstTurn]

/-- The cases of a word that the engine takes. -/
theorem stepCase_of_takeWord {s t : State} {v : PortWord} {rest : List PortWord} (htakes : TakesFront s v rest)
    (h : takeWord v (afterTake s rest) = .next t) : StepCase s t := by
  obtain ⟨i, hidle, hdecode, hexec⟩ | ⟨e, hidle, hdecode, rfl⟩ | ⟨n, buf, hphase, rfl⟩ := takeWord_cases h
  · by_cases hreader : isReader i = true
    · rw [exec_reader hreader] at hexec
      obtain rfl := Host.Outcome.next.inj hexec
      exact .read htakes hidle hdecode hreader
    · rw [exec_eq] at hexec
      obtain rfl := Host.Outcome.next.inj hexec
      cases i with
      | reset => exact .reset htakes hidle hdecode
      | add n =>
        obtain rfl | hn := Nat.eq_zero_or_pos n
        · exact .emptyAdd htakes hidle hdecode
        · simp only [Nat.ne_of_gt hn, if_false]
          exact .openAdd htakes hidle hdecode hn
      | digest | b64digest | rdstat | rdcfg => exact absurd rfl hreader
  · exact .illegal htakes hidle hdecode
  · obtain ⟨hlength, ht⟩ | ⟨hlength, ht⟩ := takePayload_cases n buf v (afterTake s rest)
    · rw [ht]; exact .payloadLast htakes hphase hlength
    · rw [ht]; exact .payloadMore htakes hphase hlength

/-- The cases of the engine's move. -/
theorem stepCase_of_engineMove {s t : State} (hturn : engineTurn s = true)
    (h : engineMove { s with turns := s.turns.tail } = .next t) : StepCase s t := by
  have hnot := rstTurn_of_engineTurn hturn
  obtain ⟨-, rfl⟩ | ⟨hrst, hemitting, rfl⟩ | ⟨-, -, -, rfl⟩ | ⟨v, rest, hrst, hemitting, hcmdIn, htake⟩ := engineMove_cases h
  · exact .idle hnot
  · exact .drain hturn hrst hemitting
  · exact .idle hnot
  · exact stepCase_of_takeWord ⟨hturn, hrst, hemitting, hcmdIn⟩ htake

/-- Every step is one of the cases. -/
theorem stepCase_of_step {s t : State} (h : step s = .next t) : StepCase s t := by
  obtain ⟨v, rest, hturns, rfl⟩ | ⟨rest, hturns, rfl⟩ | ⟨rest, hturns, rfl⟩ | ⟨rest, hturns, rfl⟩ | ⟨hturn, hmove⟩ :=
    step_cases h
  case inr.inr.inr.inr => exact stepCase_of_engineMove hturn hmove
  all_goals have htail : rest = s.turns.tail := by rw [hturns]; rfl
  case inl =>
    have hnot : rstTurn s = false := by rw [rstTurn, hturns]
    rw [htail]
    exact .deliver v hnot
  case inr.inl =>
    have hnot : rstTurn s = false := by rw [rstTurn, hturns]
    rw [htail]
    obtain ⟨-, htake⟩ | ⟨v, q, hrspq, htake⟩ := hostTake_cases { s with turns := s.turns.tail }
    · exact htake.symm ▸ .idle hnot
    · exact htake.symm ▸ .take hnot hrspq
  case inr.inr.inl =>
    have hreset : rstTurn s = true := by rw [rstTurn, hturns]
    rw [htail]
    exact .rst true hreset
  case inr.inr.inr.inl =>
    have hreset : rstTurn s = s.rst := by rw [rstTurn, hturns]
    rw [htail]
    obtain ⟨hrst, hrelease⟩ | ⟨hrst, hrelease⟩ := hostReleaseRst_cases { s with turns := s.turns.tail }
    · exact hrelease.symm ▸ .rst false (hreset.trans hrst)
    · exact hrelease.symm ▸ .idle (hreset.trans hrst)

/-! ### Nothing stops the machine -/

theorem engineMove_next (s : State) : ∃ t, engineMove s = .next t := by
  unfold engineMove takeWord takeCommand
  split
  · exact ⟨_, rfl⟩
  split
  · exact ⟨_, rfl⟩
  split
  · exact ⟨_, rfl⟩
  split
  · split
    · exact ⟨_, exec_eq _ _⟩
    · exact ⟨_, rfl⟩
  · exact ⟨_, rfl⟩

/-- Settles O49: an act of the host is a next state, and so is each move of the engine. -/
theorem everyStepHasANextState : Obligations.EveryStepHasANextState := by
  intro s
  unfold step moveOnce
  split
  case h_1 => exact engineMove_next s
  case h_2 rest _ => exact engineMove_next { s with turns := rest }
  all_goals exact ⟨_, rfl⟩

end Sys2Proof.Machine
end

section
/-!
What every step keeps: the invariant (10_state.md R20, R23, R29, R35), the cursor on the count (R35), the flags (R26), the hash
(R31) and the stream of responses (20_memory.md R52).
-/
namespace Sys2Proof.Machine

/-- A bit is not both clear and set. -/
theorem of_clear_of_set {b : Bool} {P : Prop} (hclear : b = false) (hset : b = true) : P :=
  absurd (hclear.symm.trans hset) Bool.false_ne_true

/-! ### The unused bits of W[2] -/

/-- A byte shifted by at most 31 ends below bit 39. -/
theorem byte_shiftLeft_high (b : Byte) {n : Nat} (hn : n ≤ 31) : (BitVec.setWidth 64 b <<< n) >>> 39 = 0 := by
  apply BitVec.eq_of_getLsbD_eq
  intro j hj
  rw [BitVec.getLsbD_ushiftRight]
  obtain hin | hout : 39 + j < 64 ∨ 64 ≤ 39 + j := Nat.lt_or_ge _ _
  · rw [byte_shiftLeft_bit b n hin, BitVec.getLsbD_of_ge b _ (by omega), Bool.and_false]
    exact BitVec.getLsbD_zero.symm
  · rw [BitVec.getLsbD_of_ge _ _ hout]
    exact BitVec.getLsbD_zero.symm

theorem byte_shiftRight_high (b : Byte) (n : Nat) : (BitVec.setWidth 64 b >>> n) >>> 39 = 0 := by
  apply BitVec.eq_of_getLsbD_eq
  intro j hj
  rw [BitVec.getLsbD_ushiftRight, byte_shiftRight_bit, BitVec.getLsbD_of_ge b _ (by omega)]
  exact BitVec.getLsbD_zero.symm

/-- An XOR into the words keeps the bits W[2][63:39] at 0 if its value has none there or goes into another word. -/
theorem xorWord_w2_high {k : Nat} {v : AccWord} {W : Words} (hk : k < 3) (hW : W.w2 >>> 39 = 0) (hv : k = 2 → v >>> 39 = 0) :
    (xorWord k v W).w2 >>> 39 = 0 := by
  obtain rfl | rfl | rfl : k = 0 ∨ k = 1 ∨ k = 2 := by omega
  · exact hW
  · exact hW
  · rw [xorWord_two, BitVec.ushiftRight_xor_distrib, hW, hv rfl]
    exact BitVec.xor_self

/-- PLACE keeps W[2][63:39] at 0: in W[2] a position's offset is below 32 (10_state.md R22, R35). -/
theorem place_w2_high {W : Words} {p : Nat} (b : Byte) (hp : p < 160) (hW : W.w2 >>> 39 = 0) :
    (place W p b).w2 >>> 39 = 0 := by
  have hcell := cell_cases hp
  rw [place_eq_xorWords]
  refine xorWord_w2_high (by omega) (xorWord_w2_high (by omega) hW fun hword => ?_) fun _ => byte_shiftRight_high b _
  exact byte_shiftLeft_high b (by omega)

theorem placeLoop_w2_high (d : List Byte) {c : BitVec 8} {W : Words} (hc : c.toNat < 160) (hW : W.w2 >>> 39 = 0) (k : Nat) :
    (placeLoop d c W k).words.w2 >>> 39 = 0 := by
  induction k with
  | zero => exact hW
  | succ k ih =>
    rw [placeLoop_succ, placeIter_words (placeLoop_pairAt d W k hc)]
    exact place_w2_high _ (Nat.mod_lt _ (by decide)) ih

/-! ### The invariant -/

/-- Settles O50. -/
theorem resetStateMeetsTheInvariant : Obligations.ResetStateMeetsTheInvariant where
  cursor_lt := by decide
  w2_high := by decide
  depth_pos := Nat.succ_le_succ (Nat.zero_le _)
  rspq_le := Nat.zero_le _
  phase_ok := rfl
  emit_idle := fun h => absurd rfl h
  rst_held := of_clear_of_set rfl

/-- A hardware reset meets the invariant, at either level of RST (20_memory.md R53). -/
theorem inv_hardReset {s : State} (h : Inv s) (level : Bool) : Inv { hardReset s with rst := level } where
  cursor_lt := by simp
  w2_high := by simp [Words.zero]
  depth_pos := h.depth_pos
  rspq_le := Nat.zero_le _
  phase_ok := rfl
  emit_idle := fun hne => absurd rfl hne
  rst_held := fun _ => ⟨⟨rfl, rfl, rfl⟩, ⟨rfl, rfl, rfl⟩, rfl, rfl, rfl⟩

/-- The invariant sees neither who moves next nor what is delivered. -/
theorem inv_withPorts {s : State} (h : Inv s) (ts : List Turn) (cmds : List PortWord) :
    Inv { s with turns := ts, cmdIn := cmds } :=
  { h with }

/-- Emission keeps RSPQ within its depth. -/
theorem inv_drainEmits {s : State} (h : Inv s) (hrst : s.rst = false) (hidle : s.phase = .idle) : Inv (drainEmits s) :=
  { h with
    rspq_le := drainEmits_rspq_le h.rspq_le
    emit_idle := fun _ => hidle
    rst_held := of_clear_of_set hrst }

theorem inv_emitAll {s : State} (vs : List PortWord) (h : Inv s) (hrst : s.rst = false) (hidle : s.phase = .idle) :
    Inv (emitAll vs s) :=
  inv_drainEmits { h with
    emit_idle := fun _ => hidle
    rst_held := of_clear_of_set hrst } hrst hidle

/-- An ADD keeps the invariant, and so it does with PHASE at any legal value. -/
theorem inv_addBytes {s : State} (d : List Byte) {p : Phase} (h : Inv s) (hrst : s.rst = false) (hemitting : s.emitting = [])
    (hp : phaseOk p = true) : Inv { addBytes d s with phase := p } where
  cursor_lt := addBytes_cursor_lt d s
  w2_high := by
    rw [addBytes_words]
    exact placeLoop_w2_high d h.cursor_lt h.w2_high _
  depth_pos := by simpa using h.depth_pos
  rspq_le := by simpa using h.rspq_le
  phase_ok := hp
  emit_idle := fun hne => absurd (by simpa using hemitting) hne
  rst_held := of_clear_of_set (by simpa using hrst)

theorem inv_clearHash {s : State} (h : Inv s) (hrst : s.rst = false) : Inv (clearHash s) :=
  { h with
    cursor_lt := by simp
    w2_high := by simp [Words.zero]
    rst_held := of_clear_of_set hrst }

theorem inv_raiseError {s : State} (e : Illegal) (h : Inv s) (hrst : s.rst = false) : Inv (raiseError (illegalCause e) s) := by
  cases e <;> exact { h with rst_held := of_clear_of_set hrst }

/-- With nothing left to emit and RST released, PHASE may take any legal value. -/
theorem inv_withPhase {s : State} {p : Phase} (h : Inv s) (hrst : s.rst = false) (hemitting : s.emitting = [])
    (hp : phaseOk p = true) : Inv { s with phase := p } :=
  { h with
    phase_ok := hp
    emit_idle := fun hne => absurd hemitting hne
    rst_held := of_clear_of_set hrst }

/-- A word that does not complete a payload leaves bytes missing. -/
theorem phaseOk_appendPayload {n : Nat} {buf : List Byte} (v : PortWord) (h : phaseOk (.payload n buf) = true)
    (hlength : (appendPayload n buf v).length ≠ n) : phaseOk (.payload n (appendPayload n buf v)) = true := by
  obtain ⟨hmissing, hlimit⟩ := of_decide_eq_true h
  have hle : (appendPayload n buf v).length ≤ n := by
    rw [appendPayload, List.length_append, List.length_take]
    omega
  exact decide_eq_true ⟨Nat.lt_of_le_of_ne hle hlength, hlimit⟩

/-- Settles O51, case by case. -/
theorem stepKeepsTheInvariant : Obligations.StepKeepsTheInvariant := by
  intro s t h hstep
  have hafter (rest : List PortWord) : Inv (afterTake s rest) := inv_withPorts h _ _
  cases stepCase_of_step hstep with
  | rst level => exact inv_hardReset (inv_withPorts h _ s.cmdIn) level
  | idle | deliver => exact inv_withPorts h _ _
  | take hturn hrspq =>
    have hle := h.rspq_le
    rw [hrspq] at hle
    exact { h with
      rspq_le := Nat.le_of_succ_le hle
      rst_held := fun hrst => by
        obtain ⟨-, -, -, hnone, -⟩ := h.rst_held hrst
        cases hrspq.symm.trans hnone }
  | drain hturn hrst hemitting => exact inv_drainEmits (inv_withPorts h _ s.cmdIn) hrst (h.emit_idle hemitting)
  | reset htakes => exact inv_clearHash (hafter _) htakes.rst
  | emptyAdd => rw [addBytes_nil (hafter _).cursor_lt]; exact hafter _
  | openAdd htakes hidle hdecode hn =>
    obtain ⟨hwf, -⟩ := legalWordIsTheWordOfItsCommand _ _ hdecode
    exact inv_withPhase (hafter _) htakes.rst htakes.emitting (decide_eq_true ⟨hn, of_decide_eq_true hwf⟩)
  | read htakes hidle => exact inv_emitAll _ (hafter _) htakes.rst hidle
  | illegal htakes => exact inv_raiseError _ (hafter _) htakes.rst
  | payloadMore htakes hphase hlength =>
    exact inv_withPhase (hafter _) htakes.rst htakes.emitting (phaseOk_appendPayload _ (hphase ▸ h.phase_ok) hlength)
  | payloadLast htakes => exact inv_addBytes _ (hafter _) htakes.rst htakes.emitting rfl

/-! ### The cursor on the count -/

/-- Settles O52. -/
theorem resetStateTracksTheCount : Obligations.ResetStateTracksTheCount := fun _ => rfl

/-- An ADD whose count does not wrap moves cursor and count alike (40_add.md R108, R109). -/
theorem cursorTracksCount_addBytes (d : List Byte) (s : State) (h : CursorTracksCount s) :
    CursorTracksCount (addBytes d s) := by
  intro hwrap
  obtain ⟨htotal, hflag, -⟩ := addCountsItsBytes d s
  rw [hwrap, eq_comm, Bool.or_eq_false_iff, decide_eq_false_iff_not] at hflag
  obtain ⟨hbefore, hfits⟩ := hflag
  rw [Nat.mod_eq_of_lt (Nat.not_le.mp hfits)] at htotal
  have hcursor := addAdvancesTheCursor d s
  have htracks := h hbefore
  omega

/-- Settles O53: an ADD moves both alike, a reset zeroes both, and nothing else writes them. -/
theorem stepKeepsTheCursorOnTheCount : Obligations.StepKeepsTheCursorOnTheCount := by
  intro s t h hstep
  cases stepCase_of_step hstep with
  | rst | reset => exact fun _ => rfl
  | emptyAdd | payloadLast => exact cursorTracksCount_addBytes _ (afterTake s _) h
  | @illegal _ _ e => cases e <;> exact h
  | idle | deliver | take | drain | openAdd | read | payloadMore => exact h

/-! ### The flags -/

/-- Settles O54: outside RST each flag is kept or set. -/
theorem onlyRstClearsAFlag : Obligations.OnlyRstClearsAFlag := by
  intro s t hstep hnot
  cases stepCase_of_step hstep with
  | rst _ hturn => exact of_clear_of_set hnot hturn
  | @illegal _ _ e => cases e <;> simp [illegalCause, afterTake]
  | emptyAdd | payloadLast => exact ⟨by simp [afterTake], by simp [afterTake], fun hwrap => by simp [afterTake, hwrap]⟩
  | idle | deliver | take | drain | reset | openAdd | read | payloadMore => exact ⟨id, id, id⟩

/-- A flag that a step leaves as it was does not rise. -/
theorem of_rise_of_same {b c : Bool} {P : Prop} (hsame : c = b) (hbefore : b = false) (hafter : c = true) : P :=
  of_clear_of_set hbefore (hsame.symm.trans hafter)

/-- The count of no bytes does not wrap. -/
theorem countWraps_zero (total : BitVec 64) : countWraps total 0 = false :=
  decide_eq_false (Nat.not_le.mpr total.isLt)

theorem TakesFront.head {s : State} {v : PortWord} {rest : List PortWord} (h : TakesFront s v rest) :
    s.cmdIn.head? = some v := by
  rw [h.cmdIn, List.head?_cons]

/-- Settles O55: the two kinds of illegal word raise one flag each, and a completed payload alone counts bytes. -/
theorem flagsRiseOnlyForTheirCause : Obligations.FlagsRiseOnlyForTheirCause := by
  intro s t hstep
  cases stepCase_of_step hstep with
  | rst => exact ⟨fun _ => nofun, fun _ => nofun, fun _ => nofun⟩
  | @illegal v _ e htakes hidle hdecode =>
    cases e with
    | illop =>
      exact ⟨fun _ _ => ⟨hidle, v, htakes.head, (decode_eq_illop_iff v).mp hdecode⟩, of_rise_of_same rfl,
        of_rise_of_same rfl⟩
    | rsvd =>
      exact ⟨of_rise_of_same rfl, fun _ _ => ⟨hidle, v, htakes.head, (decode_eq_rsvd_iff v).mp hdecode⟩,
        of_rise_of_same rfl⟩
  | emptyAdd =>
    exact ⟨of_rise_of_same (addBytes_illop _ _), of_rise_of_same (addBytes_rsvd _ _),
      of_rise_of_same (by simp [countWraps_zero, afterTake])⟩
  | @payloadLast v _ n buf _ hphase hlength =>
    refine ⟨of_rise_of_same (addBytes_illop _ _), of_rise_of_same (addBytes_rsvd _ _), fun hbefore hafter => ?_⟩
    have hwraps : countWraps s.total n = true := by simpa [afterTake, hbefore, hlength] using hafter
    exact ⟨n, buf, hphase, rfl, of_decide_eq_true hwraps⟩
  | idle | deliver | take | drain | reset | openAdd | read | payloadMore =>
    exact ⟨of_rise_of_same rfl, of_rise_of_same rfl, of_rise_of_same rfl⟩

/-! ### The hash -/

/-- The word that decodes to RESET is 0x10000000 (30_encoding.md R81). -/
theorem eq_of_decode_reset {v : PortWord} (h : decode v = .ok .reset) : v = 0x10000000 := by
  obtain ⟨-, hword⟩ := legalWordIsTheWordOfItsCommand v _ h
  exact hword.symm

/-- Settles O56. -/
theorem onlyAddResetAndRstChangeTheHash : Obligations.OnlyAddResetAndRstChangeTheHash := by
  intro s t hcursor hstep hnot hnoReset hnoLast
  cases stepCase_of_step hstep with
  | rst _ hturn => exact of_clear_of_set hnot hturn
  | reset htakes hidle hdecode => exact absurd ⟨hidle, eq_of_decode_reset hdecode ▸ htakes.head⟩ hnoReset
  | @emptyAdd _ rest => rw [addBytes_nil (show (afterTake s rest).cursor.toNat < 160 from hcursor)]; exact ⟨rfl, rfl, rfl⟩
  | @illegal _ _ e => cases e <;> exact ⟨rfl, rfl, rfl⟩
  | @payloadLast v _ n buf _ hphase hlength =>
    rw [appendPayload, List.length_append, List.length_take, lanes_length] at hlength
    exact absurd ⟨n, buf, hphase, by omega⟩ hnoLast
  | idle | deliver | take | drain | openAdd | read | payloadMore => exact ⟨rfl, rfl, rfl⟩

/-- An ADD whose count does not wrap increases it (40_add.md R109). -/
theorem total_le_addBytes (d : List Byte) (s : State) (hwrap : (addBytes d s).wrap = false) :
    s.total.toNat ≤ (addBytes d s).total.toNat := by
  obtain ⟨htotal, hflag, -⟩ := addCountsItsBytes d s
  rw [hwrap, eq_comm, Bool.or_eq_false_iff, decide_eq_false_iff_not] at hflag
  obtain ⟨-, hfits⟩ := hflag
  omega

/-- Settles O57. -/
theorem countOnlyIncreasesBetweenResets : Obligations.CountOnlyIncreasesBetweenResets := by
  intro s t hstep hnot hnoReset hwrap
  cases stepCase_of_step hstep with
  | rst _ hturn => exact of_clear_of_set hnot hturn
  | reset htakes hidle hdecode => exact absurd ⟨hidle, eq_of_decode_reset hdecode ▸ htakes.head⟩ hnoReset
  | emptyAdd | payloadLast => exact total_le_addBytes _ (afterTake s _) hwrap
  | @illegal _ _ e => cases e <;> exact Nat.le_refl _
  | idle | deliver | take | drain | openAdd | read | payloadMore => exact Nat.le_refl _

/-! ### The stream of responses -/

/-- A reading command emits 1, 3, 5 or 7 words, every other none (30_encoding.md R88). -/
theorem responseLength_mem (i : Instr) : responseLength i ∈ [0, 1, 3, 5, 7] := by
  cases i <;> simp [responseLength]

/-- Settles O58: a step that takes no reading command keeps the stream; one that does adds the command's words. -/
theorem responseStreamOnlyGrows : Obligations.ResponseStreamOnlyGrows := by
  intro s t hstep hnot
  have hkept (h : responses t = responses s) : ∃ ws : List PortWord, responses t = responses s ++ ws ∧
      ws.length ∈ [0, 1, 3, 5, 7] ∧ (ws ≠ [] → s.phase = .idle ∧ s.cmdIn ≠ []) :=
    ⟨[], by rw [h, List.append_nil], by decide, fun hne => absurd rfl hne⟩
  cases stepCase_of_step hstep with
  | rst _ hturn => exact of_clear_of_set hnot hturn
  | take _ hrspq => exact hkept (by simp [responses, hrspq])
  | drain => exact hkept (by simp only [responses, List.append_assoc, drainEmits_keeps_stream]; rfl)
  | @illegal _ _ e => exact hkept (by cases e <;> rfl)
  | emptyAdd | payloadLast => exact hkept (by simp [responses, afterTake])
  | @read _ rest i htakes hidle =>
    refine ⟨readerWords i (afterTake s rest), emitAll_responses _ _, ?length, fun _ => ⟨hidle, ?delivered⟩⟩
    case length => rw [readerWords_length]; exact responseLength_mem i
    case delivered => rw [htakes.cmdIn]; exact List.cons_ne_nil _ _
  | idle | deliver | reset | openAdd | payloadMore => exact hkept rfl

end Sys2Proof.Machine
end

section
/-!
What no output sees: two machines in lockstep, applied to the bits W[2][63:32] (10_state.md R22) and to the flags (R33).
-/
namespace Sys2Proof.Machine

/-! ### Lockstep -/

/-- Where the first outcome is a next state, so is the second, and the two are related. -/
def OutcomesAgree (R : State → State → Prop) (o o' : Host.Outcome State Fault Refusal) : Prop :=
  ∀ s', o = .next s' → ∃ t', o' = .next t' ∧ R s' t'

theorem outcomesAgree_next {R : State → State → Prop} {s t : State} (h : R s t) : OutcomesAgree R (.next s) (.next t) := by
  intro s' hs'
  obtain rfl := Host.Outcome.next.inj hs'
  exact ⟨t, rfl, h⟩

/-- Related states take their turns alike, and each operation of a step but a command's keeps them related. -/
structure Lockstep (R : State → State → Prop) : Prop where
  turns {s t : State} : R s t → s.turns = t.turns
  rst {s t : State} : R s t → s.rst = t.rst
  phase {s t : State} : R s t → s.phase = t.phase
  emitting {s t : State} : R s t → s.emitting = t.emitting
  cmdIn {s t : State} : R s t → s.cmdIn = t.cmdIn
  withTurns {s t : State} (ts : List Turn) : R s t → R { s with turns := ts } { t with turns := ts }
  withCmdIn {s t : State} (cmds : List PortWord) : R s t → R { s with cmdIn := cmds } { t with cmdIn := cmds }
  hostDeliver {s t : State} (v : PortWord) : R s t → R (hostDeliver v s) (hostDeliver v t)
  hostTake {s t : State} : R s t → R (hostTake s) (hostTake t)
  hostAssertRst {s t : State} : R s t → R (hostAssertRst s) (hostAssertRst t)
  hostReleaseRst {s t : State} : R s t → R (hostReleaseRst s) (hostReleaseRst t)
  drainEmits {s t : State} : R s t → R (drainEmits s) (drainEmits t)
  raiseError {s t : State} (e : Illegal) : R s t → R (raiseError (illegalCause e) s) (raiseError (illegalCause e) t)
  takePayload {s t : State} (n : Nat) (buf : List Byte) (v : PortWord) :
    R s t → R (takePayload n buf v s) (takePayload n buf v t)

/-- The commands that a step from `s` can execute keep `R` (30_encoding.md R82). -/
def CommandsAgree (R : State → State → Prop) (s : State) : Prop :=
  ∀ v i, s.phase = .idle → s.cmdIn.head? = some v → decode v = .ok i →
    ∀ s₁ t₁ : State, R s₁ t₁ → OutcomesAgree R (exec i s₁) (exec i t₁)

/-! ### The engine's move, an equation per case -/

theorem engineMove_of_emitting {s : State} (hrst : s.rst = false) (hemitting : s.emitting ≠ []) :
    engineMove s = .next (drainEmits s) := by
  simp [engineMove, hrst, hemitting]

theorem engineMove_of_no_word {s : State} (hrst : s.rst = false) (hemitting : s.emitting = []) (hcmdIn : s.cmdIn = []) :
    engineMove s = .next s := by
  simp [engineMove, hrst, hemitting, hcmdIn]

theorem engineMove_of_word {s : State} {v : PortWord} {rest : List PortWord} (hrst : s.rst = false) (hemitting : s.emitting = [])
    (hcmdIn : s.cmdIn = v :: rest) : engineMove s = takeWord v { s with cmdIn := rest } := by
  simp [engineMove, hrst, hemitting, hcmdIn]

theorem takeWord_of_payload {s : State} {n : Nat} {buf : List Byte} (v : PortWord) (hphase : s.phase = .payload n buf) :
    takeWord v s = .next (takePayload n buf v s) := by
  simp [takeWord, hphase]

theorem takeWord_of_command {s : State} {v : PortWord} {i : Instr} (hidle : s.phase = .idle) (hdecode : decode v = .ok i) :
    takeWord v s = exec i s := by
  simp [takeWord, takeCommand, hidle, hdecode]

theorem takeWord_of_illegal {s : State} {v : PortWord} {e : Illegal} (hidle : s.phase = .idle) (hdecode : decode v = .error e) :
    takeWord v s = .next (raiseError (illegalCause e) s) := by
  simp [takeWord, takeCommand, hidle, hdecode]

/-! ### Steps in lockstep -/

theorem takeWord_lockstep {R : State → State → Prop} (hR : Lockstep R) {s t : State} {v : PortWord} (h : R s t)
    (hcommands : ∀ i, s.phase = .idle → decode v = .ok i → OutcomesAgree R (exec i s) (exec i t)) :
    OutcomesAgree R (takeWord v s) (takeWord v t) := by
  have htphase := hR.phase h
  cases hphase : s.phase with
  | payload n buf =>
    rw [takeWord_of_payload v hphase, takeWord_of_payload v (htphase ▸ hphase)]
    exact outcomesAgree_next (hR.takePayload n buf v h)
  | idle =>
    cases hdecode : decode v with
    | ok i =>
      rw [takeWord_of_command hphase hdecode, takeWord_of_command (htphase ▸ hphase) hdecode]
      exact hcommands i hphase hdecode
    | error e =>
      rw [takeWord_of_illegal hphase hdecode, takeWord_of_illegal (htphase ▸ hphase) hdecode]
      exact outcomesAgree_next (hR.raiseError e h)

theorem engineMove_lockstep {R : State → State → Prop} (hR : Lockstep R) {s t : State} (h : R s t)
    (hcommands : CommandsAgree R s) : OutcomesAgree R (engineMove s) (engineMove t) := by
  have htrst := hR.rst h
  have htemitting := hR.emitting h
  have htcmdIn := hR.cmdIn h
  by_cases hrst : s.rst = true
  · rw [engineMove_of_rst hrst, engineMove_of_rst (htrst ▸ hrst)]
    exact outcomesAgree_next h
  rw [Bool.not_eq_true] at hrst
  by_cases hemitting : s.emitting = []
  case neg =>
    rw [engineMove_of_emitting hrst hemitting, engineMove_of_emitting (htrst ▸ hrst) (htemitting ▸ hemitting)]
    exact outcomesAgree_next (hR.drainEmits h)
  cases hcmdIn : s.cmdIn with
  | nil =>
    rw [engineMove_of_no_word hrst hemitting hcmdIn,
      engineMove_of_no_word (htrst ▸ hrst) (htemitting ▸ hemitting) (htcmdIn ▸ hcmdIn)]
    exact outcomesAgree_next h
  | cons v rest =>
    have htaken := hR.withCmdIn rest h
    rw [engineMove_of_word hrst hemitting hcmdIn,
      engineMove_of_word (htrst ▸ hrst) (htemitting ▸ hemitting) (htcmdIn ▸ hcmdIn)]
    exact takeWord_lockstep hR htaken fun i hidle hdecode => hcommands v i hidle (by rw [hcmdIn]; rfl) hdecode _ _ htaken

/-- A step keeps related states related if the command it executes does. -/
theorem step_lockstep {R : State → State → Prop} (hR : Lockstep R) {s t : State} (h : R s t)
    (hcommands : CommandsAgree R s) : OutcomesAgree R (step s) (step t) := by
  have htturns := hR.turns h
  have hused := hR.withTurns s.turns.tail h
  by_cases hengine : engineTurn s = true
  case pos =>
    have htengine : engineTurn t = true := by rwa [engineTurn, ← htturns]
    rw [step_engine hengine, step_engine htengine, ← htturns]
    exact engineMove_lockstep hR hused hcommands
  case neg =>
    obtain ⟨turn, rest, hturns⟩ : ∃ turn rest, s.turns = turn :: rest :=
      List.exists_cons_of_ne_nil fun hnil => hengine (by rw [engineTurn, hnil])
    rw [hturns] at hused
    cases turn with
    | engine => exact absurd (by rw [engineTurn, hturns]) hengine
    | deliver v =>
      rw [step_deliver hturns, step_deliver (htturns ▸ hturns)]
      exact outcomesAgree_next (hR.hostDeliver v hused)
    | take =>
      rw [step_take hturns, step_take (htturns ▸ hturns)]
      exact outcomesAgree_next (hR.hostTake hused)
    | assertRst =>
      rw [step_assertRst hturns, step_assertRst (htturns ▸ hturns)]
      exact outcomesAgree_next (hR.hostAssertRst hused)
    | releaseRst =>
      rw [step_releaseRst hturns, step_releaseRst (htturns ▸ hturns)]
      exact outcomesAgree_next (hR.hostReleaseRst hused)

/-! ### The bits W[2][63:32] -/

/-- The words of a reading command see nothing of the unobserved bits. -/
theorem readerWords_congr (i : Instr) {s t : State} (h : SameButUnobserved s t) : readerWords i s = readerWords i t := by
  have hdigest := digestBytes_congr h
  obtain ⟨-, ht⟩ := sameButUnobserved_iff.mp h
  cases i with
  | reset | add n | rdcfg => rfl
  | digest => rw [readerWords, readerWords, hdigest]
  | b64digest => rw [readerWords, readerWords, hdigest]
  | rdstat => rw [ht]; rfl

/-- An operation that writes no words and reads none keeps the unobserved bits unobserved. -/
theorem sameButUnobserved_of_commutes (f : State → State) (hcommutes : ∀ s V, f { s with words := V } = { f s with words := V })
    {s t : State} (h : SameButUnobserved s t) : SameButUnobserved (f s) (f t) := by
  obtain ⟨hwords, ht⟩ := sameButUnobserved_iff.mp h
  have hft : f t = { f s with words := t.words } := by
    rw [ht]
    exact hcommutes s t.words
  have hfs : f s = { f s with words := s.words } := hcommutes s s.words
  have hfsWords : (f s).words = s.words := by rw [hfs]
  have hftWords : (f t).words = t.words := by rw [hft]
  refine sameButUnobserved_iff.mpr ⟨?_, ?_⟩
  · rw [hfsWords, hftWords, hwords]
  · rw [hftWords]
    exact hft

/-- States that differ in unobserved bits alone are in lockstep. -/
theorem lockstep_sameButUnobserved : Lockstep fun s t => SameButUnobserved s t where
  turns h := by rw [(sameButUnobserved_iff.mp h).2]
  rst h := by rw [(sameButUnobserved_iff.mp h).2]
  phase h := by rw [(sameButUnobserved_iff.mp h).2]
  emitting h := by rw [(sameButUnobserved_iff.mp h).2]
  cmdIn h := by rw [(sameButUnobserved_iff.mp h).2]
  withTurns ts := sameButUnobserved_of_commutes (fun s => { s with turns := ts }) fun _ _ => rfl
  withCmdIn cmds := sameButUnobserved_of_commutes (fun s => { s with cmdIn := cmds }) fun _ _ => rfl
  hostDeliver v := sameButUnobserved_of_commutes (hostDeliver v) fun _ _ => rfl
  hostTake := sameButUnobserved_of_commutes _ fun s _ => by cases hrspq : s.rspq <;> simp [hostTake, hrspq]
  hostAssertRst h := by
    rw [(sameButUnobserved_iff.mp h).2]
    exact sameButUnobserved_refl _
  hostReleaseRst {s t} h := by
    cases hrst : s.rst with
    | false =>
      have htrst : t.rst = false := by rw [(sameButUnobserved_iff.mp h).2]; exact hrst
      rwa [hostReleaseRst_of_released hrst, hostReleaseRst_of_released htrst]
    | true =>
      have htrst : t.rst = true := by rw [(sameButUnobserved_iff.mp h).2]; exact hrst
      rw [hostReleaseRst_of_asserted hrst, hostReleaseRst_of_asserted htrst, (sameButUnobserved_iff.mp h).2]
      exact sameButUnobserved_refl _
  drainEmits := sameButUnobserved_of_commutes _ fun _ _ => rfl
  raiseError e := by cases e <;> exact sameButUnobserved_of_commutes _ fun _ _ => rfl
  takePayload {s t} n buf v h := by
    by_cases hlength : (appendPayload n buf v).length = n <;> simp only [takePayload, hlength, if_true, if_false]
    · exact sameButUnobserved_of_commutes (fun s => { s with phase := .idle }) (fun _ _ => rfl)
        (addBytes_congr (appendPayload n buf v) h)
    · exact sameButUnobserved_of_commutes (fun s => { s with phase := .payload n (appendPayload n buf v) })
        (fun _ _ => rfl) h

/-- Every command keeps the unobserved bits unobserved. -/
theorem exec_sameButUnobserved (i : Instr) {s t : State} (h : SameButUnobserved s t) :
    OutcomesAgree (fun s t => SameButUnobserved s t) (exec i s) (exec i t) := by
  by_cases hreader : isReader i = true
  · rw [exec_reader hreader, exec_reader hreader, readerWords_congr i h]
    exact outcomesAgree_next (sameButUnobserved_of_commutes (emitAll (readerWords i t)) (fun _ _ => rfl) h)
  · rw [exec_eq, exec_eq]
    refine outcomesAgree_next ?_
    cases i with
    | reset =>
      rw [(sameButUnobserved_iff.mp h).2]
      exact sameButUnobserved_refl _
    | add n =>
      obtain rfl | hn := Nat.eq_zero_or_pos n
      · exact addBytes_congr [] h
      · simp only [Nat.ne_of_gt hn, if_false]
        exact sameButUnobserved_of_commutes (fun s => { s with phase := .payload n [] }) (fun _ _ => rfl) h
    | digest | b64digest | rdstat | rdcfg => exact absurd rfl hreader

/-- Settles O59. -/
theorem unobservedBitsNeverReachAnOutput : Obligations.UnobservedBitsNeverReachAnOutput := by
  intro s t s' h hstep
  exact step_lockstep lockstep_sameButUnobserved h (fun _ i _ _ _ _ _ h₁ => exec_sameButUnobserved i h₁) s' hstep

/-! ### The flags -/

/-- Equal in everything but the flags. -/
def SameButFlags (s t : State) : Prop := ∃ a b c, t = { s with illop := a, rsvd := b, wrap := c }

/-- An ADD reads no flag; the WRAP it leaves depends on the one before. -/
theorem addBytes_sameButFlags (d : List Byte) {s t : State} (h : SameButFlags s t) :
    SameButFlags (addBytes d s) (addBytes d t) := by
  obtain ⟨a, b, c, rfl⟩ := h
  exact ⟨a, b, c || countWraps s.total d.length, by ext1 <;> simp⟩

theorem withPhase_sameButFlags (p : Phase) {s t : State} (h : SameButFlags s t) :
    SameButFlags { s with phase := p } { t with phase := p } := by
  obtain ⟨a, b, c, rfl⟩ := h
  exact ⟨a, b, c, rfl⟩

/-- States that differ in flags alone are in lockstep. -/
theorem lockstep_sameButFlags : Lockstep SameButFlags where
  turns := by rintro s _ ⟨a, b, c, rfl⟩; rfl
  rst := by rintro s _ ⟨a, b, c, rfl⟩; rfl
  phase := by rintro s _ ⟨a, b, c, rfl⟩; rfl
  emitting := by rintro s _ ⟨a, b, c, rfl⟩; rfl
  cmdIn := by rintro s _ ⟨a, b, c, rfl⟩; rfl
  withTurns ts := by rintro ⟨a, b, c, rfl⟩; exact ⟨a, b, c, rfl⟩
  withCmdIn cmds := by rintro ⟨a, b, c, rfl⟩; exact ⟨a, b, c, rfl⟩
  hostDeliver v := by rintro ⟨a, b, c, rfl⟩; exact ⟨a, b, c, rfl⟩
  hostTake {s _} := by
    rintro ⟨a, b, c, rfl⟩
    exact ⟨a, b, c, by cases hrspq : s.rspq <;> simp [hostTake, hrspq]⟩
  hostAssertRst := by rintro s _ ⟨a, b, c, rfl⟩; exact ⟨false, false, false, rfl⟩
  hostReleaseRst {s _} := by
    rintro ⟨a, b, c, rfl⟩
    cases hrst : s.rst with
    | false => exact ⟨a, b, c, by simp [hrst]⟩
    | true => exact ⟨false, false, false, by ext1 <;> simp [hrst]⟩
  drainEmits := by rintro s _ ⟨a, b, c, rfl⟩; exact ⟨a, b, c, rfl⟩
  raiseError e := by
    rintro ⟨a, b, c, rfl⟩
    cases e with
    | illop => exact ⟨true, b, c, rfl⟩
    | rsvd => exact ⟨a, true, c, rfl⟩
  takePayload n buf v h := by
    by_cases hlength : (appendPayload n buf v).length = n <;> simp only [takePayload, hlength, if_true, if_false]
    · exact withPhase_sameButFlags .idle (addBytes_sameButFlags (appendPayload n buf v) h)
    · exact withPhase_sameButFlags _ h

/-- No command but RDSTAT reads a flag (10_state.md R33). -/
theorem exec_sameButFlags {i : Instr} (hi : i ≠ .rdstat) {s t : State} (h : SameButFlags s t) :
    OutcomesAgree SameButFlags (exec i s) (exec i t) := by
  rw [exec_eq, exec_eq]
  refine outcomesAgree_next ?_
  cases i with
  | rdstat => exact absurd rfl hi
  | add n =>
    obtain rfl | hn := Nat.eq_zero_or_pos n
    · exact addBytes_sameButFlags [] h
    · simp only [Nat.ne_of_gt hn, if_false]
      exact withPhase_sameButFlags _ h
  | reset | digest | b64digest | rdcfg =>
    obtain ⟨a, b, c, rfl⟩ := h
    exact ⟨a, b, c, rfl⟩

/-- Settles O60: the one word that decodes to RDSTAT is not in front. -/
theorem flagsAreSeenByRdstatAlone : Obligations.FlagsAreSeenByRdstatAlone := by
  intro s s' a b c hstep hnoRdstat
  have hcommands : CommandsAgree SameButFlags s := by
    intro v i hidle hhead hdecode s₁ t₁ h₁
    refine exec_sameButFlags (fun hrdstat => hnoRdstat ⟨hidle, ?_⟩) h₁
    obtain ⟨-, hword⟩ := legalWordIsTheWordOfItsCommand v i hdecode
    rw [hhead, ← hword, hrdstat]
    rfl
  obtain ⟨t', ht', a', b', c', rfl⟩ := step_lockstep lockstep_sameButFlags ⟨a, b, c, rfl⟩ hcommands s' hstep
  exact ⟨a', b', c', ht'⟩

end Sys2Proof.Machine
end
